-- ==== Sys2Proof/Word.lean ====
section
/-!
DEFINITION. The widths of the SQ-832's fields and registers: bytes, 16-bit, 32-bit and 64-bit words, host
addresses and time-base values.
-/

namespace Sys2Proof

/-- One byte of a record (R196). -/
abbrev Byte := BitVec 8

/-- A 16-bit field: a sample code, a line snapshot, an output code. -/
abbrev Half := BitVec 16

/-- A 32-bit field or register: a tag, a value word, a counter. -/
abbrev Word := BitVec 32

/-- A 64-bit host address (R196). -/
abbrev Addr := BitVec 64

/-- A value of the time base, in counts of 100 ns (R94). -/
abbrev Time := BitVec 64

/-- A timestamp of a record: the low 48 bits of the time base (R94). -/
abbrev Stamp := BitVec 48

end Sys2Proof
end

