-- ==== Sys2Proof/Syntax.lean ====
section
/-!
DEFINITION. The commands of the SQ-832: `Instr` has one constructor for each row of spec/opcode_table.json.
`Command` is a command record as its owner takes it, the 19 records of R197.
-/

namespace Sys2Proof

/-- A submission ring: 0 is the admin ring, 1 to 4 are the work rings (01). -/
abbrev RingId := Fin 5

/-- A scan context (04). -/
abbrev CtxId := Fin 8

/-- A digital line (08). -/
abbrev LineId := Fin 16

/-- An analog channel (02). -/
abbrev ChanId := Fin 32

/-- The parameters of SET_CHANNEL as its record carries them (R197). Byte 12's bits 1 and 0 are the two flags. -/
structure ChannelParams where
  channel : Byte
  mode : Byte
  gain : Byte
  range : Byte
  limitEnable : Bool
  report : Bool
  low : Half
  high : Half
deriving DecidableEq, Repr

/-- The parameters of DEFINE_CONTEXT as its record carries them (R197, second table). -/
structure DefineParams where
  priority : Byte
  mode : Byte
  source : Byte
  paceLine : Byte
  paceEdge : Byte
  start : Byte
  startLine : Byte
  startEdge : Byte
  stop : Byte
  stopLine : Byte
  stopEdge : Byte
  depth : Byte
  bufferPolicy : Byte
  slipPolicy : Byte
  format : Byte
  quota : Byte
  period : Word
  count : Word
  timeout : Half
  flush : Half
  clearCounters : Bool
deriving DecidableEq, Repr

/-- A command that has passed the common checks, as it is handed to its owner (R12, R14, R197). A field that an
owner checks keeps the number its record carries. -/
inductive Command where
  | createRing (ring weight : Byte) (size : Word) (base : Addr)
  | deleteRing (ring : Byte)
  | barrier
  | report (address : Addr)
  | setChannel (p : ChannelParams)
  | rearmLimit (channel : Byte)
  | loadSequence (ctx : CtxId) (count : Half) (address : Addr)
  | defineContext (ctx : CtxId) (p : DefineParams)
  | arm (ctx : CtxId)
  | stop (ctx : CtxId)
  | abort (ctx : CtxId)
  | resetContext (ctx : CtxId)
  | releaseContext (ctx : CtxId)
  | pulse (ctx : CtxId)
  | calibrate (store : Bool)
  | postBuffer (ctx : CtxId) (length tag : Word) (address : Addr)
  | setLines (flags : Half) (settings : List Half)
  | setCounter (counter source edge : Byte)
  | setOutput (ctx : CtxId) (output kind : Byte) (code : Half)
deriving DecidableEq, Repr

/-- When a reading is taken, among the changes of its own instant: before them all, where the event's own order has it,
or after them all (R163, R172). -/
inductive Moment where
  | before
  | between
  | after
deriving DecidableEq, Repr

/-- The moments of the readings that one event makes, where it also changes what they read. The manual leaves each open
(R163, R172; log 29). A moment that is not given is `between`. -/
structure ReadOrder where
  /-- Pseudo-input 32, line by line. -/
  lines : List Moment
  /-- Pseudo-inputs 33 and 34. -/
  count : Moment
  /-- The line snapshot of a scan's first tick, context by context and line by line. -/
  scans : List (List Moment)
deriving DecidableEq, Repr

/-- An event of a context, and when its readings are taken. -/
structure CtxEvent where
  ctx : CtxId
  read : ReadOrder
deriving DecidableEq, Repr

/-- Who takes a line edge: the two counters and the contexts (R162). -/
inductive EdgeTaker where
  | counter (k : Fin 2)
  | context (c : CtxId)
deriving DecidableEq, Repr

/-- How a slot end is taken: in which order the trigger watchers of the contexts take a limit event of its sample, which
R39 leaves open (log 11), and when the readings of the event are taken. -/
structure SlotOrder where
  watchers : List CtxId
  read : ReadOrder
deriving DecidableEq, Repr

/-- All that take a line edge. -/
def EdgeTaker.all : List EdgeTaker := [.counter 0, .counter 1] ++ (List.finRange 8).map .context

/-- The steps of the SQ-832, one constructor for each row of spec/opcode_table.json. -/
inductive Instr where
  /-- POWER_ON (R195). -/
  | powerOn
  /-- LINK_RESET (R186). -/
  | linkReset
  /-- LINK_LOSS (R184, R186). -/
  | linkLoss
  /-- LINK_RETURN (R186, R194). -/
  | linkReturn
  /-- ENABLE (R182): a CONTROL write with ENABLE 1 and this INT_ENABLE bit. -/
  | enable (intEnable : Bool)
  /-- SOFT_RESET (R183): a CONTROL write with ENABLE 0 and this INT_ENABLE bit. -/
  | softReset (intEnable : Bool)
  /-- INT_ENABLE (R193): a CONTROL write that keeps ENABLE as it reads and writes this INT_ENABLE bit. -/
  | intEnable (value : Bool)
  /-- SUBMIT_TAIL (R3): a write of `value` to SUBMIT_TAILn of ring `ring`. -/
  | submitTail (ring : RingId) (value : Word)
  /-- CPL_HEAD (R19). -/
  | cplHead (value : Word)
  /-- INT_CAUSE_READ (R180). -/
  | intCauseRead
  /-- INT_COALESCE (R180, R193). -/
  | intCoalesce (value : Word)
  /-- REGISTER_WRITE (R180): a write of `width` bits at a byte offset of the window. A narrower `value` fills the low
  bits. -/
  | registerWrite (offset width : Nat) (value : BitVec 64)
  /-- FETCH_BEGIN (R7, R8). -/
  | fetchBegin
  /-- FETCH_RETURN (R8): the fetch outstanding returns these 64 bytes. -/
  | fetchReturn (record : List Byte)
  /-- SEQUENCE_READ_RETURN (R52): outstanding read number `read`, a step list read, returns these bytes. -/
  | sequenceReadReturn (read : Nat) (data : List Byte)
  /-- READ_ERROR_COMPLETION (R190) for outstanding read number `read`. -/
  | readErrorCompletion (read : Nat)
  /-- READ_TIMEOUT (R190) for outstanding read number `read`. -/
  | readTimeout (read : Nat)
  /-- CREATE_RING (R5). -/
  | createRing (ring weight : Byte) (size : Word) (base : Addr)
  /-- DELETE_RING (R6). -/
  | deleteRing (ring : Byte)
  /-- BARRIER (R23), taken from ring `src`. -/
  | barrier (src : RingId)
  /-- REPORT (R24). -/
  | report (address : Addr)
  /-- REPORT_WRITE_DONE (R25). -/
  | reportWriteDone
  /-- SET_CHANNEL (R33, R35). -/
  | setChannel (p : ChannelParams)
  /-- REARM_LIMIT (R43). -/
  | rearmLimit (channel : Byte)
  /-- LOAD_SEQUENCE (R49, R51), taken from ring `src`. -/
  | loadSequence (src : RingId) (ctx : CtxId) (count : Half) (address : Addr)
  /-- DEFINE_CONTEXT (R62, R63, R64), taken from ring `src`. -/
  | defineContext (src : RingId) (ctx : CtxId) (p : DefineParams)
  /-- ARM (R66, R69), taken from ring `src`. -/
  | arm (src : RingId) (ctx : CtxId)
  /-- STOP (R77), taken from ring `src`. -/
  | stop (src : RingId) (ctx : CtxId)
  /-- ABORT (R81) of a context, taken from ring `src`. -/
  | abort (src : RingId) (event : CtxEvent)
  /-- RESET_CONTEXT (R91), taken from ring `src`. -/
  | resetContext (src : RingId) (ctx : CtxId)
  /-- RELEASE_CONTEXT (R92), taken from ring `src`. -/
  | releaseContext (src : RingId) (ctx : CtxId)
  /-- PULSE (R100) of a context, taken from ring `src`. -/
  | pulse (src : RingId) (event : CtxEvent)
  /-- CALIBRATE (R130, R131). -/
  | calibrate (store : Bool)
  /-- CAL_ENTRY_MEASURED (R132): the low and the high reading of the entry being measured. -/
  | calEntryMeasured (low high : Half)
  /-- CAL_STORE_DONE (R133). -/
  | calStoreDone
  /-- POST_BUFFER (R143, R144), taken from ring `src`. -/
  | postBuffer (src : RingId) (ctx : CtxId) (length tag : Word) (address : Addr)
  /-- SET_LINES (R165, R166): the change flags and the sixteen settings, mode in the low byte. -/
  | setLines (flags : Half) (settings : List Half)
  /-- SET_COUNTER (R171). -/
  | setCounter (counter source edge : Byte)
  /-- SET_OUTPUT (R174, R175), taken from ring `src`. -/
  | setOutput (src : RingId) (ctx : CtxId) (output kind : Byte) (code : Half)
  /-- LINE_EDGE (R162): `level` has stood 200 ns at the input of `line`. `order`: the order in which the counters and
  the contexts take the edge, which the manual leaves open (log 11). `read`: see `ReadOrder`. -/
  | lineEdge (line : LineId) (level : Bool) (order : List EdgeTaker) (read : ReadOrder)
  /-- INTERNAL_TICK (R98) of a context's divider. -/
  | internalTick (event : CtxEvent)
  /-- SLOT_END (R123): the slot under way ends with this raw code. -/
  | slotEnd (raw : Half) (order : SlotOrder)
  /-- TRIGGER_TIMEOUT (R111). -/
  | triggerTimeout (ctx : CtxId)
  /-- FLUSH_TIMER (R152). -/
  | flushTimer (ctx : CtxId)
  /-- EVENT_PULSE_END (R169). -/
  | eventPulseEnd (line : LineId)
  /-- FRAME_WRITE_BEGIN (R145). `staging`: an error that cannot be corrected is found in the frame (R148). -/
  | frameWriteBegin (ctx : CtxId) (staging : Bool)
  /-- FRAME_WRITE_END (R147). -/
  | frameWriteEnd
  /-- CLAIMANT_HANDED_IN (R20). -/
  | claimantHandedIn
  /-- COMPLETION_WRITE_BEGIN (R18). -/
  | completionWriteBegin
  /-- COMPLETION_WRITE_DONE (R18). `deadlineFirst`: where the count and the deadline are reached at this instant, the
  deadline is taken first, a choice R192 leaves open (log 11). -/
  | completionWriteDone (deadlineFirst : Bool)
  /-- FIRST_UNSIGNALLED_DEADLINE (R192). -/
  | firstUnsignalledDeadline
  /-- BUS_TRANSFER_SEND (R188). -/
  | busTransferSend
  /-- ENDPOINT_CONFIGURATION_WRITE (R186, R187, R188, R192). -/
  | endpointConfigurationWrite (busMaster messages : Bool) (address : Addr)
deriving DecidableEq, Repr

end Sys2Proof
end

