-- ==== Sys2Proof/Decode.lean ====
section
/-!
DEFINITION. Reading the structures the host writes: command records (R196, R197) and step lists (R200), and beside
them the record a command is written as. No row of spec/opcode_table.json gives bits, so `decodeTableWord` reads no
word (log 6).
-/

namespace Sys2Proof

/-- The command that a word of the table spells: the table gives no row any bits, so none (log 6). -/
def decodeTableWord (_nbits _w : Nat) : Option Instr := none

/-! ### Little-endian fields (R196) -/

/-- The byte at an offset of a structure; 0 past its end. -/
def byteAt (r : List Byte) (i : Nat) : Byte := r.getD i 0

/-- The 16-bit field at an offset, least significant byte first. -/
def halfAt (r : List Byte) (i : Nat) : Half := byteAt r (i + 1) ++ byteAt r i

/-- The 32-bit field at an offset. -/
def wordAt (r : List Byte) (i : Nat) : Word := halfAt r (i + 2) ++ halfAt r i

/-- The 64-bit field at an offset. -/
def longAt (r : List Byte) (i : Nat) : BitVec 64 := wordAt r (i + 4) ++ wordAt r i

/-- The `n` bytes of a field, least significant first. -/
def leBytes (n : Nat) {w : Nat} (v : BitVec w) : List Byte :=
  (List.range n).map fun k => v.extractLsb' (8 * k) 8

/-! ### Opcodes (R197) -/

/-- The nineteen commands. -/
inductive Opcode where
  | createRing | deleteRing | barrier | report | setChannel | rearmLimit | loadSequence
  | defineContext | arm | stop | abort | resetContext | releaseContext | pulse | calibrate
  | postBuffer | setLines | setCounter | setOutput
deriving DecidableEq, Repr

/-- The opcode byte of each command (R197). -/
def Opcode.code : Opcode → Byte
  | .createRing => 0x01
  | .deleteRing => 0x02
  | .barrier => 0x03
  | .report => 0x04
  | .setChannel => 0x10
  | .rearmLimit => 0x11
  | .loadSequence => 0x18
  | .defineContext => 0x20
  | .arm => 0x21
  | .stop => 0x22
  | .abort => 0x23
  | .resetContext => 0x24
  | .releaseContext => 0x25
  | .pulse => 0x28
  | .calibrate => 0x30
  | .postBuffer => 0x38
  | .setLines => 0x40
  | .setCounter => 0x41
  | .setOutput => 0x42

/-- Every opcode, in the order of R197. -/
def Opcode.all : List Opcode :=
  [.createRing, .deleteRing, .barrier, .report, .setChannel, .rearmLimit, .loadSequence,
   .defineContext, .arm, .stop, .abort, .resetContext, .releaseContext, .pulse, .calibrate,
   .postBuffer, .setLines, .setCounter, .setOutput]

/-- The command an opcode byte names, if it names one (R12 check 1, R197). -/
def Opcode.ofByte (b : Byte) : Option Opcode := Opcode.all.find? fun o => o.code == b

/-- The admin-only commands (R12 check 2). -/
def Opcode.adminOnly : Opcode → Bool
  | .createRing | .deleteRing | .report | .setChannel | .rearmLimit | .calibrate | .setLines
  | .setCounter => true
  | .barrier | .loadSequence | .defineContext | .arm | .stop | .abort | .resetContext
  | .releaseContext | .pulse | .postBuffer | .setOutput => false

/-- The commands marked "yes" in R197's context column. -/
def Opcode.addressesContext : Opcode → Bool
  | .loadSequence | .defineContext | .arm | .stop | .abort | .resetContext | .releaseContext
  | .pulse | .postBuffer | .setOutput => true
  | .createRing | .deleteRing | .barrier | .report | .setChannel | .rearmLimit | .calibrate
  | .setLines | .setCounter => false

/-- The whole bytes R197 assigns in a command's parameter area, as offset and length. -/
def Opcode.fields : Opcode → List (Nat × Nat)
  | .createRing => [(8, 2), (12, 4), (16, 8)]
  | .deleteRing => [(8, 1)]
  | .report => [(16, 8)]
  | .setChannel => [(8, 4), (16, 4)]
  | .rearmLimit => [(8, 1)]
  | .loadSequence => [(8, 2), (16, 8)]
  | .defineContext => [(8, 28)]
  | .postBuffer => [(8, 16)]
  | .setLines => [(8, 2), (16, 32)]
  | .setCounter => [(8, 3)]
  | .setOutput => [(8, 4)]
  | .barrier | .arm | .stop | .abort | .resetContext | .releaseContext | .pulse | .calibrate => []

/-- The bytes of which R197 assigns only some bits: offset and the bits assigned. -/
def Opcode.flagBits : Opcode → List (Nat × Byte)
  | .setChannel => [(12, 0x03)]
  | .defineContext => [(36, 0x01)]
  | .calibrate => [(8, 0x01)]
  | .createRing | .deleteRing | .barrier | .report | .rearmLimit | .loadSequence | .arm | .stop
  | .abort | .resetContext | .releaseContext | .pulse | .postBuffer | .setLines | .setCounter
  | .setOutput => []

/-- The bits of byte `i` of a record that belong to a field of the command (R196, R197, section 10.2). -/
def Opcode.assignedBits (o : Opcode) (i : Nat) : Byte :=
  if i = 0 ∨ (4 ≤ i ∧ i < 8) then 0xFF
  else if i = 1 then (if o.addressesContext then 0xFF else 0x00)
  else if o.fields.any (fun f => f.1 ≤ i && i < f.1 + f.2) then 0xFF
  else ((o.flagBits.find? fun f => f.1 == i).map (·.2)).getD 0x00

/-- Every reserved byte and bit of the record is zero (R12 check 4, R196). -/
def Opcode.reservedZero (o : Opcode) (r : List Byte) : Bool :=
  (List.range 64).all fun i => byteAt r i &&& ~~~(o.assignedBits i) == 0

/-! ### Command records -/

/-- The context field as a context number; it has passed R12 check 3 where it is used. -/
def contextOf (r : List Byte) : CtxId := Fin.ofNat 8 (byteAt r 1).toNat

/-- SET_CHANNEL's parameters (R197). -/
def channelParamsOf (r : List Byte) : ChannelParams where
  channel := byteAt r 8
  mode := byteAt r 9
  gain := byteAt r 10
  range := byteAt r 11
  limitEnable := (byteAt r 12).getLsbD 0
  report := (byteAt r 12).getLsbD 1
  low := halfAt r 16
  high := halfAt r 18

/-- DEFINE_CONTEXT's parameters (R197, second table). -/
def defineParamsOf (r : List Byte) : DefineParams where
  priority := byteAt r 8
  mode := byteAt r 9
  source := byteAt r 10
  paceLine := byteAt r 11
  paceEdge := byteAt r 12
  start := byteAt r 13
  startLine := byteAt r 14
  startEdge := byteAt r 15
  stop := byteAt r 16
  stopLine := byteAt r 17
  stopEdge := byteAt r 18
  depth := byteAt r 19
  bufferPolicy := byteAt r 20
  slipPolicy := byteAt r 21
  format := byteAt r 22
  quota := byteAt r 23
  period := wordAt r 24
  count := wordAt r 28
  timeout := halfAt r 32
  flush := halfAt r 34
  clearCounters := (byteAt r 36).getLsbD 0

/-- The command of a record whose opcode is `o` (R197). -/
def Opcode.read (o : Opcode) (r : List Byte) : Command :=
  match o with
  | .createRing => .createRing (byteAt r 8) (byteAt r 9) (wordAt r 12) (longAt r 16)
  | .deleteRing => .deleteRing (byteAt r 8)
  | .barrier => .barrier
  | .report => .report (longAt r 16)
  | .setChannel => .setChannel (channelParamsOf r)
  | .rearmLimit => .rearmLimit (byteAt r 8)
  | .loadSequence => .loadSequence (contextOf r) (halfAt r 8) (longAt r 16)
  | .defineContext => .defineContext (contextOf r) (defineParamsOf r)
  | .arm => .arm (contextOf r)
  | .stop => .stop (contextOf r)
  | .abort => .abort (contextOf r)
  | .resetContext => .resetContext (contextOf r)
  | .releaseContext => .releaseContext (contextOf r)
  | .pulse => .pulse (contextOf r)
  | .calibrate => .calibrate ((byteAt r 8).getLsbD 0)
  | .postBuffer => .postBuffer (contextOf r) (wordAt r 8) (wordAt r 12) (longAt r 16)
  | .setLines => .setLines (halfAt r 8) ((List.range 16).map fun k => halfAt r (16 + 2 * k))
  | .setCounter => .setCounter (byteAt r 8) (byteAt r 9) (byteAt r 10)
  | .setOutput => .setOutput (contextOf r) (byteAt r 8) (byteAt r 9) (halfAt r 10)

/-- The opcode of a command. -/
def Command.opcode : Command → Opcode
  | .createRing _ _ _ _ => .createRing
  | .deleteRing _ => .deleteRing
  | .barrier => .barrier
  | .report _ => .report
  | .setChannel _ => .setChannel
  | .rearmLimit _ => .rearmLimit
  | .loadSequence _ _ _ => .loadSequence
  | .defineContext _ _ => .defineContext
  | .arm _ => .arm
  | .stop _ => .stop
  | .abort _ => .abort
  | .resetContext _ => .resetContext
  | .releaseContext _ => .releaseContext
  | .pulse _ => .pulse
  | .calibrate _ => .calibrate
  | .postBuffer _ _ _ _ => .postBuffer
  | .setLines _ _ => .setLines
  | .setCounter _ _ _ => .setCounter
  | .setOutput _ _ _ _ => .setOutput

/-- The context field of a command's record: its context, or zero where it addresses none. -/
def Command.contextField : Command → Byte
  | .loadSequence c _ _ | .defineContext c _ | .arm c | .stop c | .abort c | .resetContext c
  | .releaseContext c | .pulse c | .postBuffer c _ _ _ | .setOutput c _ _ _ => BitVec.ofNat 8 c.val
  | .createRing _ _ _ _ | .deleteRing _ | .barrier | .report _ | .setChannel _ | .rearmLimit _
  | .calibrate _ | .setLines _ _ | .setCounter _ _ _ => 0

/-- A flag bit as a byte. -/
def flagByte (b : Bool) : Byte := if b then 1 else 0

/-- The parameter area of a command's record, from byte 8, without its trailing zeros (R197). -/
def Command.parameters : Command → List Byte
  | .createRing ring weight size base =>
    [ring, weight, 0, 0] ++ leBytes 4 size ++ leBytes 8 base
  | .deleteRing ring => [ring]
  | .barrier => []
  | .report a => [0, 0, 0, 0, 0, 0, 0, 0] ++ leBytes 8 a
  | .setChannel p =>
    [p.channel, p.mode, p.gain, p.range, flagByte p.limitEnable ||| flagByte p.report <<< 1, 0, 0, 0] ++
      leBytes 2 p.low ++ leBytes 2 p.high
  | .rearmLimit ch => [ch]
  | .loadSequence _ n a => leBytes 2 n ++ [0, 0, 0, 0, 0, 0] ++ leBytes 8 a
  | .defineContext _ p =>
    [p.priority, p.mode, p.source, p.paceLine, p.paceEdge, p.start, p.startLine, p.startEdge, p.stop,
     p.stopLine, p.stopEdge, p.depth, p.bufferPolicy, p.slipPolicy, p.format, p.quota] ++
      leBytes 4 p.period ++ leBytes 4 p.count ++ leBytes 2 p.timeout ++ leBytes 2 p.flush ++
      [flagByte p.clearCounters]
  | .arm _ | .stop _ | .abort _ | .resetContext _ | .releaseContext _ | .pulse _ => []
  | .calibrate store => [flagByte store]
  | .postBuffer _ len tag a => leBytes 4 len ++ leBytes 4 tag ++ leBytes 8 a
  | .setLines flags settings =>
    leBytes 2 flags ++ [0, 0, 0, 0, 0, 0] ++ settings.flatMap (leBytes 2 ·)
  | .setCounter counter source edge => [counter, source, edge]
  | .setOutput _ output kind code => [output, kind] ++ leBytes 2 code

/-- The 64-byte record of a command with a tag (R197): header, parameters, and zeros. -/
def Command.record (tag : Word) (c : Command) : List Byte :=
  let r := [c.opcode.code, c.contextField, 0, 0] ++ leBytes 4 tag ++ c.parameters
  r ++ List.replicate (64 - r.length) 0

/-- The region of host memory a command names: address, alignment and length (R13). -/
def Command.region : Command → Option (Addr × Nat × Nat)
  | .createRing _ _ size base => some (base, 64, size.toNat * 64)
  | .loadSequence _ count a => some (a, 8, count.toNat * 8)
  | .postBuffer _ len _ a => some (a, 64, len.toNat)
  | .report a => some (a, 64, 512)
  | .deleteRing _ | .barrier | .setChannel _ | .rearmLimit _ | .defineContext _ _ | .arm _ | .stop _
  | .abort _ | .resetContext _ | .releaseContext _ | .pulse _ | .calibrate _ | .setLines _ _
  | .setCounter _ _ _ | .setOutput _ _ _ _ => none

/-- A region lies below the limit: its last byte, at address + length − 1, does (R13, R187). A length of 0 is tested as
written, like any other; the sum does not wrap (log 21). -/
def regionBelow (limit address : Addr) (length : Nat) : Bool := address.toNat + length ≤ limit.toNat

/-- The address check of a command (R12 check 5, R13). -/
def Command.addressOk (limit : Addr) (c : Command) : Bool :=
  match c.region with
  | none => true
  | some (a, align, len) => a.toNat % align == 0 && regionBelow limit a len

/-! ### Step lists (R200) -/

/-- The eight bytes of one step. -/
structure RawStep where
  input : Byte
  gain : Byte
  settle : Byte
  reps : Byte
  reserved : Word
deriving DecidableEq, Repr

/-- The step whose bytes a list begins with. -/
def rawStepOf (d : List Byte) : RawStep where
  input := byteAt d 0
  gain := byteAt d 1
  settle := byteAt d 2
  reps := byteAt d 3
  reserved := wordAt d 4

/-- The first `n` steps of a step list. -/
def rawStepsOf : Nat → List Byte → List RawStep
  | 0, _ => []
  | n + 1, d => rawStepOf d :: rawStepsOf n (d.drop 8)

end Sys2Proof
end

