-- ==== Sys2Proof/Config.lean ====
section
/-!
DEFINITION. What the SQ-832 fixes: the sizes of its tables, and the one value its manual leaves open.
-/

namespace Sys2Proof

/-- The revision field of IDENT. The manual gives no value (09, section 9.1), so nothing here does either: a
free value, log 10. -/
opaque Config.revision : Byte

/-- The entries of the pending command table (R15). -/
abbrev Config.pendingEntries : Nat := 32

/-- The entries of the completion backlog (R20). -/
abbrev Config.backlogEntries : Nat := 32

/-- The backlog level at which intake pauses (R7). -/
abbrev Config.pauseLevel : Nat := 24

/-- The slots of the step pool (R47). -/
abbrev Config.stepSlots : Nat := 256

/-- The units of staging memory (R136). -/
abbrev Config.stagingUnits : Nat := 64

/-- The bytes of one staging unit (R136). -/
abbrev Config.unitBytes : Nat := 512

/-- The descriptors a context's buffer queue holds (R142). -/
abbrev Config.queueBuffers : Nat := 16

/-- Time-base counts in one millisecond (R95). -/
abbrev Config.countsPerMs : Nat := 10000

/-- The host read completion timeout of 50 ms, in time-base counts (R190). -/
abbrev Config.readTimeoutCounts : Nat := 500000

/-- The length of an event pulse, 1 µs, in time-base counts (R169). -/
abbrev Config.pulseCounts : Nat := 10

end Sys2Proof
end

