-- ==== Sys2Proof/Machine/State.lean ====
section
/-!
DEFINITION. The state of the SQ-832, block by block, as plain data, and its value after power-on (`State.reset`).
-/

namespace Sys2Proof.Machine

open Sys2Proof

/-! ### Stops -/

/-- No command stops the block with a fault: a command that is refused completes with a status (R12, R199), and a
device failure is the device state FAILED (R184). The type has no constructor, so no meaning can raise one: safe. -/
inductive Fault where
deriving DecidableEq, Repr

/-- Why a command has no meaning. -/
inductive Refusal where
  /-- Raised by `exec` for a row of the table that has no meaning here. Every row has one, so no arm raises it: safe. -/
  | notModelled (mnemonic : String)
deriving DecidableEq, Repr

/-! ### Statuses and completions (R199) -/

/-- The status codes of COMMAND completions. -/
inductive Status where
  | ok | badOpcode | wrongRing | badContext | badParam | badAddress | badRing | ringBusy | badState
  | channelInUse | lineInUse | poolFull | stagingFull | stagingShort | queueFull | bufferTooSmall
  | buffersHeld | periodShort | settleShort | pairConflict | lineMode | calibrating | converterBusy
  | calFailed | badStep | fetchError | aborted | overtaken | superseded | cancelled
deriving DecidableEq, Repr

/-- The end reasons of runs (R88). -/
inductive EndReason where
  | countDone | stopTrigger | stopped | aborted | triggerTimeout | overrun | pacingOverrun
deriving DecidableEq, Repr

/-- The statuses of BUFFER completions (R149). -/
inductive BufferStatus where
  | filled | partial' | aborted | unused
deriving DecidableEq, Repr

/-- A channel's limit state (R37). The regions are the last three. -/
inductive LimitState where
  | unknown | inside | above | below
deriving DecidableEq, Repr

/-- The statuses of NOTICE completions (R22). -/
inductive NoticeStatus where
  | indexError | fetchError
deriving DecidableEq, Repr

/-- The status of a completion; it also tells the completion's kind (R199). -/
inductive CplStatus where
  /-- COMMAND, with a status code. -/
  | command (s : Status)
  /-- COMMAND, of an accepted ARM, with an end reason (R88). -/
  | run (r : EndReason)
  /-- BUFFER. -/
  | buffer (s : BufferStatus)
  /-- LIMIT, with the new region (R42). -/
  | limit (region : LimitState)
  /-- NOTICE. -/
  | notice (s : NoticeStatus)
deriving DecidableEq, Repr

/-- A completion in the backlog (R21), without the phase its record is written with. -/
structure Completion where
  status : CplStatus
  ring : RingId
  context : Byte
  tag : Word
  subHead : Nat
  w0 : Word
  w1 : Word
  w2 : Word
  stamp : Stamp
deriving DecidableEq, Repr

/-- What answers a command: its status, its value words, and the time its rule names if it names one (R21). -/
structure Answer where
  status : CplStatus
  w0 : Word
  w1 : Word
  w2 : Word
  stamp : Option Time
deriving DecidableEq, Repr

/-- A STOP or ABORT kept for a run's end, with the answer R87 has fixed for it. -/
structure TailItem where
  entry : Nat
  answer : Answer
deriving DecidableEq, Repr

/-- Who waits for a backlog entry (R20). -/
inductive Claim where
  /-- A pending command with its completion in hand (R16). -/
  | command (entry : Nat) (answer : Answer)
  /-- A context whose next buffer or whose ARM completion is due (R87, R150); which one is read when its turn comes. -/
  | context (c : CtxId)
  /-- The STOP and ABORT completions of a run that has been answered (R87 steps 3 and 4). -/
  | runTail (c : CtxId) (items : List TailItem)
  /-- A ring notice (R22). -/
  | notice (s : NoticeStatus) (ring : RingId) (head : Nat) (w0 w1 : Word)
deriving DecidableEq, Repr

/-! ### Host Link (09) -/

/-- The device states. -/
inductive DeviceState where
  | offline | online | failed
deriving DecidableEq, Repr

/-- The values of INT_CAUSE. -/
inductive IntCause where
  | none | count | time | failed
deriving DecidableEq, Repr

/-- The registers that hold a value of their own (R180). -/
structure Registers where
  intEnable : Bool
  configError : Bool
  check : Nat
  intCause : IntCause
  adminBase : Addr
  adminSize : Word
  cplSize : Word
  cplBase : Addr
  cplHead : Word
  intCount : BitVec 7
  intTime : Half
  dmaLimit : Addr
deriving DecidableEq, Repr

/-- The endpoint's configuration (R186, R187, R188, R192). -/
structure Endpoint where
  busMaster : Bool
  messages : Bool
  address : Addr
deriving DecidableEq, Repr

/-- A transfer of class 1 (R188). -/
inductive Class1 where
  | record (address : Addr) (bytes : List Byte)
  | message (cause : IntCause)
deriving DecidableEq, Repr

/-- What a read of class 2 is for: a command fetch, or the step list of a context's load, the load named by its
pending entry (R52, R58). -/
inductive ReadKind where
  | fetch
  | steps (ctx : CtxId) (load : Nat)
deriving DecidableEq, Repr

/-- A read asked for. -/
structure ReadRequest where
  kind : ReadKind
  address : Addr
  length : Nat
deriving DecidableEq, Repr

/-- A read whose request has been sent, with the time it was sent (R190). -/
structure OutstandingRead where
  request : ReadRequest
  sentAt : Time
deriving DecidableEq, Repr

/-- A frame write of class 3. -/
structure FrameWrite where
  address : Addr
  bytes : List Byte
deriving DecidableEq, Repr

/-- A REPORT snapshot write of class 4, with the REPORT's pending entry and the time of its snapshot (R25). -/
structure ReportWrite where
  entry : Nat
  address : Addr
  bytes : List Byte
  takenAt : Time
deriving DecidableEq, Repr

/-- A transfer on the link. -/
inductive Transfer where
  | record (address : Addr) (bytes : List Byte)
  | message (cause : IntCause) (address : Addr)
  | read (r : ReadRequest)
  | frame (ctx : CtxId) (w : FrameWrite)
  | report (w : ReportWrite)
deriving DecidableEq, Repr

/-- The bus-master arbiter (R188). -/
structure Bus where
  class1 : List Class1
  class2 : List ReadRequest
  class3 : Vector (Option FrameWrite) 8
  class4 : List ReportWrite
  lastServed : CtxId
  /-- The transfer sent most recently. -/
  onLink : Option Transfer
  /-- That transfer is still being sent. -/
  busy : Bool
  outstanding : List OutstandingRead
deriving DecidableEq, Repr

/-- The Host Link. -/
structure HostLink where
  device : DeviceState
  operating : Bool
  regs : Registers
  endpoint : Endpoint
  /-- The coalescing state's unsignalled count (R191). -/
  unsignalled : Nat
  /-- The coalescing state's first-unsignalled deadline (R191). -/
  deadline : Option Time
  bus : Bus
  /-- FAILED was entered by link loss and its message has not had its chance to be sent (R194). -/
  failedOwed : Bool
deriving DecidableEq, Repr

/-! ### Intake and Completion Writer (01) -/

/-- The states of a submission ring. -/
inductive RingState where
  | absent | active | halted
deriving DecidableEq, Repr

/-- An entry of the ring table. -/
structure Ring where
  state : RingState
  base : Addr
  size : Nat
  weight : Nat
  head : Nat
  tail : Nat
deriving DecidableEq, Repr

/-- An entry of the pending command table (R15). `age` names it: it is the order in which entries are taken. -/
structure PendingEntry where
  age : Nat
  ring : RingId
  filled : Bool
  tag : Word
  opcode : Byte
  context : Byte
  subHead : Nat
deriving DecidableEq, Repr

/-- A command dispatched to its owner and not yet taken (R14). -/
structure Dispatched where
  entry : Nat
  ring : RingId
  command : Command
deriving DecidableEq, Repr

/-- The fetch in flight: its ring and its reserved entry (R8). -/
structure Fetch where
  ring : RingId
  entry : Nat
deriving DecidableEq, Repr

/-- The Intake. -/
structure Intake where
  rings : Vector Ring 5
  /-- The intake arbiter's current ring (R11). -/
  current : Option RingId
  /-- Records taken in the current turn (R11). -/
  taken : Nat
  /-- The current ring's turn has ended (R4, R6, R11). -/
  turnOver : Bool
  fetch : Option Fetch
  table : List PendingEntry
  nextAge : Nat
  dispatched : List Dispatched
  /-- Entries of BARRIERs that wait (R23). -/
  barriers : List Nat
deriving DecidableEq, Repr

/-- The Completion Writer. -/
structure CompletionWriter where
  base : Addr
  size : Nat
  head : Nat
  tail : Nat
  phase : Bool
  /-- A record write has been asked for and not yet sent (R18). -/
  writing : Bool
  backlog : List Completion
  claimants : List Claim
deriving DecidableEq, Repr

/-! ### Channel Table (02) -/

/-- A channel's mode. -/
inductive ChannelMode where
  | single | diff
deriving DecidableEq, Repr

/-- A channel's range. -/
inductive Range where
  | bipolar | unipolar
deriving DecidableEq, Repr

/-- A channel entry (R28). -/
structure Channel where
  mode : ChannelMode
  gain : Nat
  range : Range
  limitEnable : Bool
  low : Half
  high : Half
  report : Bool
  limit : LimitState
  armed : Bool
deriving DecidableEq, Repr

/-! ### Contexts: definition, sequence, run, pacing, capture (03, 04, 05, 07) -/

/-- A line edge. -/
inductive Edge where
  | rising | falling
deriving DecidableEq, Repr

/-- The direction of a LIMIT start trigger (R109). -/
inductive Direction where
  | above | below | either
deriving DecidableEq, Repr

/-- The pacing mode. -/
inductive PaceMode where
  | step | scan
deriving DecidableEq, Repr

/-- The pacing source (05 section 5.3). -/
inductive PaceSource where
  | internal (period : Nat)
  | line (l : LineId) (e : Edge)
  | soft
deriving DecidableEq, Repr

/-- The start trigger (05 section 5.5). -/
inductive StartTrigger where
  | immediate
  | line (l : LineId) (e : Edge)
  | limit (ch : ChanId) (d : Direction)
deriving DecidableEq, Repr

/-- The stop trigger (R112). -/
inductive StopTrigger where
  | none
  | line (l : LineId) (e : Edge)
deriving DecidableEq, Repr

/-- The buffer policy. -/
inductive BufferPolicy where
  | halt | discard
deriving DecidableEq, Repr

/-- The slip policy. -/
inductive SlipPolicy where
  | count | halt
deriving DecidableEq, Repr

/-- The frame format (R46). -/
inductive Format where
  | packed | framed
deriving DecidableEq, Repr

/-- A context's definition (04 section 4.1). The staging quota it carries is held by the Capture Engine. -/
structure Definition where
  priority : Nat
  mode : PaceMode
  source : PaceSource
  start : StartTrigger
  timeout : Nat
  stop : StopTrigger
  count : Word
  depth : Nat
  bufferPolicy : BufferPolicy
  slipPolicy : SlipPolicy
  format : Format
  flush : Nat
  clearCounters : Bool
deriving DecidableEq, Repr

/-- A step as the pool keeps it (R44, R200). -/
structure Step where
  input : Nat
  gain : Nat
  settle : Nat
  reps : Nat
deriving DecidableEq, Repr

/-- The context states (04 section 4.3). -/
inductive CtxState where
  | unbound | defined | loading | ready | armed | running | stopping | halted
deriving DecidableEq, Repr

/-- The Context Table's part of a run (04 sections 4.1 and 4.6). -/
structure Run where
  numbered : Word
  delivered : Word
  dropped : Word
  discarded : Word
  slips : Word
  historyDelivered : Word
  nextScan : Word
  /-- Scans begun in RUNNING and not withdrawn (R75). -/
  begun : Word
  endReason : Option EndReason
  armEntry : Option Nat
  stops : List Nat
  aborts : List Nat
deriving DecidableEq, Repr

/-- The pacing phase. -/
inductive PacePhase where
  | off | history | run
deriving DecidableEq, Repr

/-- The tick latch. -/
inductive TickState where
  | free | latched | granted
deriving DecidableEq, Repr

/-- Which trigger is watched. -/
inductive Watcher where
  | none | start | stop
deriving DecidableEq, Repr

/-- A pacing record (05 section 5.2). -/
structure Pacing where
  phase : PacePhase
  origin : Time
  /-- The k of the next instant origin + k × period not yet delivered (R98). -/
  ticks : Nat
  nextPos : Nat
  tick : TickState
  countReached : Bool
  watcher : Watcher
  deadline : Option Time
deriving DecidableEq, Repr

/-- The condition of a frame record. -/
inductive FrameCondition where
  | filling | complete | writing
deriving DecidableEq, Repr

/-- A frame record (07 section 7.2). -/
structure Frame where
  scan : Option Word
  firstTick : Time
  lines : Half
  history : Bool
  gap : Bool
  cond : FrameCondition
  samples : List Half
deriving DecidableEq, Repr

/-- A buffer descriptor (07 section 7.3). -/
structure Buffer where
  address : Addr
  length : Nat
  tag : Word
  ring : RingId
  used : Nat
  frames : Nat
  firstScan : Word
  gap : Bool
  opened : Bool
  due : Option BufferStatus
deriving DecidableEq, Repr

/-- An item of the return list: a buffer to give back, or the command whose completion follows the buffers before it
(R81, R91, R92, R158; log 15). -/
inductive ReturnItem where
  | buffer (b : Buffer)
  | command (entry : Nat) (answer : Answer)
deriving DecidableEq, Repr

/-- The Capture Engine's part of a context (07 section 7.1). -/
structure Capture where
  quota : Nat
  store : List Frame
  queue : List Buffer
  returns : List ReturnItem
  writing : Bool
  lastWritten : Option Word
  flushDeadline : Option Time
  faultLimit : Option Nat
deriving DecidableEq, Repr

/-- A context record. -/
structure Ctx where
  state : CtxState
  defn : Option Definition
  /-- Step slots owned (R47). -/
  slots : Nat
  /-- The sequence the slots hold; empty while they hold no usable steps (R47). -/
  steps : List Step
  /-- The pending entry of the LOAD_SEQUENCE in flight (R51). -/
  load : Option Nat
  run : Run
  pacing : Pacing
  cap : Capture
deriving DecidableEq, Repr

/-! ### Conversion Unit (06) -/

/-- A correction table entry (R125). -/
structure CorrEntry where
  offset : Int
  scale : Nat
deriving DecidableEq, Repr

/-- The source of the live table (R127). -/
inductive TableSource where
  | factory | calibrated | default
deriving DecidableEq, Repr

/-- The kind of a nonvolatile copy (R128). -/
inductive CopyKind where
  | factory | calibrated
deriving DecidableEq, Repr

/-- A nonvolatile copy (R128). `intact`: its check value matches its contents (log 9). -/
structure NvCopy where
  entries : Vector CorrEntry 16
  kind : CopyKind
  generation : Word
  intact : Bool
deriving DecidableEq, Repr

/-- What a slot converts, taken at its start (R31, R123, R124). -/
inductive SlotInput where
  | analog (ch : ChanId) (mode : ChannelMode) (gain : Nat) (range : Range)
  | digital (value : Half)
deriving DecidableEq, Repr

/-- The slot under way. -/
structure Slot where
  pos : Nat
  start : Time
  stop : Time
  input : SlotInput
deriving DecidableEq, Repr

/-- A grant (R116): its context, the slot under way, the last position it covers, and its end. -/
structure Grant where
  ctx : CtxId
  slot : Slot
  last : Nat
  until' : Time
deriving DecidableEq, Repr

/-- Who holds the converter (06 section 6.2). -/
inductive Holder where
  | none
  | context (g : Grant)
  | calibration
deriving DecidableEq, Repr

/-- The phase of a calibration (R131). -/
inductive CalPhase where
  | idle
  | measuring (k : Fin 16)
  | storing (copy : Fin 2)
deriving DecidableEq, Repr

/-- The calibration state. `entry` is the CALIBRATE in flight, until its completion joins the backlog (R130, R133). -/
structure Calibration where
  phase : CalPhase
  entry : Option Nat
  store : Bool
  readings : List CorrEntry
deriving DecidableEq, Repr

/-- The Conversion Unit. -/
structure Conversion where
  holder : Holder
  lastGranted : Option CtxId
  calRequest : Bool
  table : Vector CorrEntry 16
  source : TableSource
  nv : Vector NvCopy 2
  cal : Calibration
deriving DecidableEq, Repr

/-! ### Line Unit and Output Unit (08) -/

/-- The kinds of events an EVENT line follows. -/
inductive EventKind where
  | runActive | scanStart | bufferRetired
deriving DecidableEq, Repr

/-- A line's mode with the fields that belong to it (08 section 8.1). -/
inductive LineMode where
  | input
  | output (level : Bool)
  | event (source : CtxId) (kind : EventKind)
deriving DecidableEq, Repr

/-- A line. `seen` is the filtered level of a line in INPUT mode (R162). -/
structure Line where
  mode : LineMode
  seen : Bool
  pulseEnd : Option Time
deriving DecidableEq, Repr

/-- An edge counter (R170): its source line and edge, if it has one, and its count. -/
structure Counter where
  source : Option (LineId × Edge)
  count : Word
deriving DecidableEq, Repr

/-- The Line Unit. -/
structure LineUnit where
  lines : Vector Line 16
  /-- The levels that stand at the line inputs (R161, R162; log 7). -/
  pins : Half
  counters : Vector Counter 2
deriving DecidableEq, Repr

/-- A run event a deferred update waits for (R174). -/
inductive RunEvent where
  | runStart | runEnd
deriving DecidableEq, Repr

/-- A deferred update (08 section 8.5). -/
structure Deferred where
  code : Half
  event : RunEvent
  ctx : CtxId
  entry : Nat
deriving DecidableEq, Repr

/-- An analog output. -/
structure Output where
  code : Half
  update : Option Deferred
deriving DecidableEq, Repr

/-! ### The state -/

/-- Everything the SQ-832 holds, and the queue of the commands that wait. -/
structure State where
  pending : List Instr
  timeBase : Time
  link : HostLink
  intake : Intake
  cpl : CompletionWriter
  chans : Vector Channel 32
  ctxs : Vector Ctx 8
  conv : Conversion
  lines : LineUnit
  outs : Vector Output 2
  /-- What the last read of INT_CAUSE gave the host. -/
  hostRead : Word
deriving DecidableEq, Repr

/-! ### Reset values -/

/-- The registers at power-on (R181). -/
def Registers.reset : Registers where
  intEnable := false
  configError := false
  check := 0
  intCause := .none
  adminBase := 0
  adminSize := 0
  cplSize := 0
  cplBase := 0
  cplHead := 0
  intCount := 1
  intTime := 0
  dmaLimit := 0

/-- The endpoint's reset state (R186, R195). -/
def Endpoint.reset : Endpoint where
  busMaster := false
  messages := false
  address := 0

/-- The bus-master arbiter after a reset (R183, R188). -/
def Bus.reset : Bus where
  class1 := []
  class2 := []
  class3 := Vector.replicate 8 none
  class4 := []
  lastServed := 7
  onLink := none
  busy := false
  outstanding := []

/-- The Host Link at power-on (R181, R191, R195). -/
def HostLink.reset : HostLink where
  device := .offline
  operating := true
  regs := Registers.reset
  endpoint := Endpoint.reset
  unsignalled := 0
  deadline := none
  bus := Bus.reset
  failedOwed := false

/-- A ring in ABSENT (R1). -/
def Ring.absent : Ring where
  state := .absent
  base := 0
  size := 0
  weight := 0
  head := 0
  tail := 0

/-- The Intake after a reset (R1, R26). -/
def Intake.reset : Intake where
  rings := Vector.replicate 5 Ring.absent
  current := none
  taken := 0
  turnOver := false
  fetch := none
  table := []
  nextAge := 0
  dispatched := []
  barriers := []

/-- The Completion Writer after a reset (R17, R26). -/
def CompletionWriter.reset : CompletionWriter where
  base := 0
  size := 0
  head := 0
  tail := 0
  phase := true
  writing := false
  backlog := []
  claimants := []

/-- A channel entry after a reset (R28). -/
def Channel.reset : Channel where
  mode := .single
  gain := 0
  range := .bipolar
  limitEnable := false
  low := 0
  high := 65535
  report := false
  limit := .unknown
  armed := true

/-- The run record after a reset (R61). -/
def Run.reset : Run where
  numbered := 0
  delivered := 0
  dropped := 0
  discarded := 0
  slips := 0
  historyDelivered := 0
  nextScan := 0
  begun := 0
  endReason := none
  armEntry := none
  stops := []
  aborts := []

/-- A pacing record after a reset (R96). -/
def Pacing.reset : Pacing where
  phase := .off
  origin := 0
  ticks := 0
  nextPos := 0
  tick := .free
  countReached := false
  watcher := .none
  deadline := none

/-- A context's part of the Capture Engine after a reset (R159). -/
def Capture.reset : Capture where
  quota := 0
  store := []
  queue := []
  returns := []
  writing := false
  lastWritten := none
  flushDeadline := none
  faultLimit := none

/-- A context record after a reset (R61). -/
def Ctx.reset : Ctx where
  state := .unbound
  defn := none
  slots := 0
  steps := []
  load := none
  run := Run.reset
  pacing := Pacing.reset
  cap := Capture.reset

/-- The nominal correction entry (R125). -/
def CorrEntry.nominal : CorrEntry where
  offset := 0
  scale := 65536

/-- A nonvolatile copy that is not valid: what the model takes the board to hold when it is made (log 8). -/
def NvCopy.blank : NvCopy where
  entries := Vector.replicate 16 CorrEntry.nominal
  kind := .factory
  generation := 0
  intact := false

/-- No calibration in flight (R131, R135). -/
def Calibration.idle : Calibration where
  phase := .idle
  entry := none
  store := false
  readings := []

/-- The Conversion Unit at power-on with no valid copy (R117, R129). -/
def Conversion.reset : Conversion where
  holder := .none
  lastGranted := none
  calRequest := false
  table := Vector.replicate 16 CorrEntry.nominal
  source := .default
  nv := Vector.replicate 2 NvCopy.blank
  cal := Calibration.idle

/-- The Line Unit after a reset with no line high (R161, R170, log 7). -/
def LineUnit.reset : LineUnit where
  lines := Vector.replicate 16 (Line.mk .input false none)
  pins := 0
  counters := Vector.replicate 2 (Counter.mk none 0)

/-- An analog output after a reset: 0 V, nothing pending (R173). -/
def Output.reset : Output where
  code := 32768
  update := none

/-- The SQ-832 right after power-on: OFFLINE, every block in its power-on state (R195). -/
def State.reset : State where
  pending := []
  timeBase := 0
  link := HostLink.reset
  intake := Intake.reset
  cpl := CompletionWriter.reset
  chans := Vector.replicate 32 Channel.reset
  ctxs := Vector.replicate 8 Ctx.reset
  conv := Conversion.reset
  lines := LineUnit.reset
  outs := Vector.replicate 2 Output.reset
  hostRead := 0

end Sys2Proof.Machine
end

