-- ==== Sys2Proof/Machine/Ops.lean ====
section
/-!
DEFINITION. The named operations every meaning is built from: reading and replacing one entry of a table, time, and
the pending command table.
-/

namespace Sys2Proof.Machine

open Sys2Proof

/-! ### One entry of a table -/

/-- The record of a context. -/
def State.ctx (s : State) (c : CtxId) : Ctx := s.ctxs[c.val]

/-- Replace the record of a context. -/
def State.setCtx (s : State) (c : CtxId) (x : Ctx) : State := { s with ctxs := s.ctxs.set c.val x }

/-- Change the record of a context. -/
def State.modCtx (s : State) (c : CtxId) (f : Ctx → Ctx) : State := s.setCtx c (f (s.ctx c))

/-- The entry of a submission ring. -/
def State.ring (s : State) (r : RingId) : Ring := s.intake.rings[r.val]

/-- Replace the entry of a submission ring. -/
def State.setRing (s : State) (r : RingId) (x : Ring) : State :=
  { s with intake := { s.intake with rings := s.intake.rings.set r.val x } }

/-- The entry of a channel. -/
def State.chan (s : State) (n : ChanId) : Channel := s.chans[n.val]

/-- Replace the entry of a channel. -/
def State.setChan (s : State) (n : ChanId) (x : Channel) : State := { s with chans := s.chans.set n.val x }

/-- A line's record. -/
def State.line (s : State) (l : LineId) : Line := s.lines.lines[l.val]

/-- Replace a line's record. -/
def State.setLine (s : State) (l : LineId) (x : Line) : State :=
  { s with lines := { s.lines with lines := s.lines.lines.set l.val x } }

/-- An analog output. -/
def State.out (s : State) (o : Fin 2) : Output := s.outs[o.val]

/-- Replace an analog output. -/
def State.setOut (s : State) (o : Fin 2) (x : Output) : State := { s with outs := s.outs.set o.val x }

/-- An edge counter: 0 is A, 1 is B. -/
def State.counter (s : State) (k : Fin 2) : Counter := s.lines.counters[k.val]

/-- Replace an edge counter. -/
def State.setCounter (s : State) (k : Fin 2) (x : Counter) : State :=
  { s with lines := { s.lines with counters := s.lines.counters.set k.val x } }

/-- Change the Host Link's registers. -/
def State.modRegs (s : State) (f : Registers → Registers) : State :=
  { s with link := { s.link with regs := f s.link.regs } }

/-- Change the bus-master arbiter. -/
def State.modBus (s : State) (f : Bus → Bus) : State :=
  { s with link := { s.link with bus := f s.link.bus } }

/-- The contexts in number order. -/
def allContexts : List CtxId := List.finRange 8

/-- Every member of `all` once, beginning with those an order names (log 11). -/
def completeOrder {α : Type} [BEq α] (all order : List α) : List α :=
  (order ++ all).foldl (fun seen x => if seen.contains x then seen else seen ++ [x]) []

/-- Every entry of a table changed. -/
def mapEach {α β : Type} {n : Nat} (f : α → β) (v : Vector α n) : Vector β n := Vector.ofFn fun i : Fin n => f v[i]

/-! ### Time (R94, R95) -/

/-- The time base has reached an instant. -/
def timeReached (now t : Time) : Bool := t.toNat ≤ now.toNat

/-- An instant so many counts after another. -/
def timeAfter (t : Time) (counts : Nat) : Time := t + BitVec.ofNat 64 counts

/-- The deadline of a timer of some milliseconds; a duration of 0 starts none (R95). -/
def msDeadline (t : Time) (ms : Nat) : Option Time :=
  if ms = 0 then none else some (timeAfter t (Config.countsPerMs * ms))

/-- The timestamp of an instant: the low 48 bits (R94). -/
def stampOf (t : Time) : Stamp := t.setWidth 48

/-- The time base reaches an instant if it has not passed it already (log 3). -/
def State.advanceTo (s : State) (t : Time) : State :=
  { s with timeBase := if timeReached s.timeBase t then s.timeBase else t }

/-- One count of the time base (R94). -/
def State.tickTime (s : State) : State := { s with timeBase := s.timeBase + 1 }

/-! ### The pending command table (R15) -/

/-- The pending entry of a number. -/
def State.entry? (s : State) (id : Nat) : Option PendingEntry := s.intake.table.find? fun e => e.age == id

/-- Free a pending entry. -/
def State.freeEntry (s : State) (id : Nat) : State :=
  { s with intake := { s.intake with table := s.intake.table.filter fun e => e.age != id } }

/-- Room for another completion, and nobody waits for it (R20, R41; log 14). -/
def State.backlogOpen (s : State) : Bool :=
  s.cpl.backlog.length < Config.backlogEntries && s.cpl.claimants.isEmpty

/-- A completion joins the back of the backlog (R20). -/
def State.pushCompletion (s : State) (c : Completion) : State :=
  { s with cpl := { s.cpl with backlog := s.cpl.backlog ++ [c] } }

/-! ### Context states -/

/-- ARMED, RUNNING or STOPPING (04 section 4.3). -/
def CtxState.active : CtxState → Bool
  | .armed | .running | .stopping => true
  | .unbound | .defined | .loading | .ready | .halted => false

/-- The definition of a context with none, all of whose fields are zero. -/
def Definition.absent : Definition where
  priority := 0
  mode := .step
  source := .soft
  start := .immediate
  timeout := 0
  stop := .none
  count := 0
  depth := 0
  bufferPolicy := .halt
  slipPolicy := .count
  format := .packed
  flush := 0
  clearCounters := false

/-- The definition in force; every bound context has one (R65). -/
def Ctx.definition (x : Ctx) : Definition := x.defn.getD Definition.absent

/-- The context holds the converter (06 section 6.2). -/
def State.holdsConverter (s : State) (c : CtxId) : Bool :=
  match s.conv.holder with
  | .context g => g.ctx == c
  | .none | .calibration => false

/-- The staging units held by all bound contexts (R136). -/
def State.unitsHeld (s : State) : Nat := (s.ctxs.toList.map fun x => x.cap.quota).sum

/-- The step slots owned by all contexts (R47). -/
def State.slotsOwned (s : State) : Nat := (s.ctxs.toList.map fun x => x.slots).sum

/-- Free step slots (R47). -/
def State.slotsFree (s : State) : Nat := Config.stepSlots - s.slotsOwned

/-- Free staging units (R136). -/
def State.unitsFree (s : State) : Nat := Config.stagingUnits - s.unitsHeld

/-- A number as a value word. -/
def word (n : Nat) : Word := BitVec.ofNat 32 n

/-! ### Commands dispatched to their owners (R14) -/

/-- The command of a ring that its owner takes next (R14). -/
def State.dispatchedFrom (s : State) (r : RingId) : Option Dispatched :=
  s.intake.dispatched.find? fun d => d.ring == r

/-- The owner has taken the next command of a ring. -/
def State.takeDispatched (s : State) (r : RingId) : State :=
  { s with intake := { s.intake with dispatched := s.intake.dispatched.eraseP fun d => d.ring == r } }

/-- The owner takes `cmd` if it is the next command dispatched from ring `r` and the device is ONLINE, and then
does `act` for its pending entry; otherwise the step does not happen (log 5). -/
def State.ownerTakes (s : State) (r : RingId) (cmd : Command) (act : Nat → State → State) : State :=
  match s.dispatchedFrom r with
  | some d =>
    if s.link.device = .online ∧ d.command = cmd then act d.entry (s.takeDispatched r) else s
  | none => s

end Sys2Proof.Machine
end

