-- ==== Sys2Proof/Machine/Operands.lean ====
section
/-!
DEFINITION. What a command's fields amount to: positions, slots and frame sizes of a sequence (03), and the
definition a DEFINE_CONTEXT carries (R62, R197).
-/

namespace Sys2Proof.Machine

open Sys2Proof

/-! ### Sequences (R44 to R46, R115, R116) -/

/-- S, the positions of one scan (R45). -/
def scanPositions (steps : List Step) : Nat := (steps.map fun st => st.reps).sum

/-- The step a position belongs to (R45). -/
def stepAt : List Step → Nat → Option Step
  | [], _ => none
  | st :: rest, p => if p < st.reps then some st else stepAt rest (p - st.reps)

/-- A step names a pseudo-input (R31). -/
def Step.isPseudo (st : Step) : Bool := 32 ≤ st.input

/-- The slot length of a step's positions in time-base counts (R115). -/
def Step.slotCounts (st : Step) : Nat := if st.isPseudo then 20 else 20 * (1 + st.settle)

/-- The sum of the slots of all positions (R116). -/
def scanCounts (steps : List Step) : Nat := (steps.map fun st => st.reps * st.slotCounts).sum

/-- The longest slot of any position (R67 check 1). -/
def longestSlot (steps : List Step) : Nat := (steps.map Step.slotCounts).foldl max 0

/-- The frame size of S positions in a format (R46). -/
def frameBytes (f : Format) (positions : Nat) : Nat :=
  match f with
  | .packed => 2 * positions
  | .framed => (16 + 2 * positions + 7) / 8 * 8

/-- A quota holds pretrigger depth + 1 frames (R46). -/
def quotaHolds (units depth size : Nat) : Bool := (depth + 1) * size ≤ Config.unitBytes * units

/-- The frame size of a context's sequence in its format. -/
def Ctx.frameSize (x : Ctx) : Nat := frameBytes x.definition.format (scanPositions x.steps)

/-- The frame capacity of a context (R137). -/
def Ctx.frameCapacity (x : Ctx) : Nat :=
  if x.steps = [] then 0 else Config.unitBytes * x.cap.quota / x.frameSize

/-! ### Validation of a step list (R54) -/

/-- The input is n + 16 for a channel n in DIFF (R29). -/
def State.isPartner (s : State) (input : Nat) : Bool :=
  (List.finRange 32).any fun n => n.val + 16 == input && n.val < 16 && (s.chan n).mode == .diff

/-- The reason code of the first check a step fails, if one fails (R54). -/
def State.stepFault (s : State) (r : RawStep) : Option Nat :=
  if 34 < r.input.toNat then some 1
  else if 7 < r.gain.toNat ∧ r.gain.toNat ≠ 15 then some 2
  else if 32 ≤ r.input.toNat ∧ r.gain.toNat ≠ 15 then some 3
  else if 7 < r.settle.toNat then some 4
  else if r.reps.toNat < 1 ∨ 16 < r.reps.toNat then some 5
  else if r.reserved ≠ 0 then some 6
  else if s.isPartner r.input.toNat then some 7
  else none

/-- The first step that fails, by index, with its reason code (R54). -/
def State.firstBadStep (s : State) : Nat → List RawStep → Option (Nat × Nat)
  | _, [] => none
  | i, r :: rest =>
    match s.stepFault r with
    | some reason => some (i, reason)
    | none => s.firstBadStep (i + 1) rest

/-- A step as the pool keeps it (R200). -/
def RawStep.kept (r : RawStep) : Step where
  input := r.input.toNat
  gain := r.gain.toNat
  settle := r.settle.toNat
  reps := r.reps.toNat

/-! ### The definition of DEFINE_CONTEXT (R62, R197) -/

/-- A line number from 0 to 15. -/
def isLine (b : Byte) : Bool := b.toNat < 16

/-- An edge value: 1 RISING, 2 FALLING. -/
def isEdge (b : Byte) : Bool := b == 1 || b == 2

/-- The line of a field that has passed `isLine`. -/
def lineOf (b : Byte) : LineId := Fin.ofNat 16 b.toNat

/-- The edge of a field that has passed `isEdge`. -/
def edgeOf (b : Byte) : Edge := if b = 1 then .rising else .falling

/-- The direction of a field that holds 1, 2 or 3. -/
def directionOf (b : Byte) : Direction := if b = 1 then .above else if b = 2 then .below else .either

/-- A line and an edge, or both absent and zero. -/
def absentPair (a b : Byte) : Bool := a == 0 && b == 0

/-- The number of the first check of R62 that fails, if one fails. -/
def defineFault (p : DefineParams) : Option Nat :=
  if 3 < p.priority.toNat then some 1
  else if 1 < p.mode.toNat then some 2
  else if 2 < p.source.toNat then some 3
  else if p.source = 0 ∧ p.period.toNat < 20 then some 4
  else if p.source = 1 ∧ ¬(isLine p.paceLine && isEdge p.paceEdge) then some 5
  else if 2 < p.start.toNat then some 6
  else if p.start = 1 ∧ ¬(isLine p.startLine && isEdge p.startEdge) then some 7
  else if p.start = 2 ∧ ¬(p.startLine.toNat < 32 ∧ 1 ≤ p.startEdge.toNat ∧ p.startEdge.toNat ≤ 3) then some 7
  else if 1 < p.stop.toNat then some 8
  else if p.stop = 1 ∧ ¬(isLine p.stopLine && isEdge p.stopEdge) then some 8
  else if 255 < p.depth.toNat then some 9
  else if 1 < p.bufferPolicy.toNat ∨ 1 < p.slipPolicy.toNat ∨ 1 < p.format.toNat then some 10
  else if p.quota.toNat < 1 ∨ 32 < p.quota.toNat then some 11
  else if (p.source ≠ 0 ∧ p.period ≠ 0) ∨ (p.source ≠ 1 ∧ ¬absentPair p.paceLine p.paceEdge) ∨
      (p.start = 0 ∧ ¬absentPair p.startLine p.startEdge) ∨
      (p.stop = 0 ∧ ¬absentPair p.stopLine p.stopEdge) then some 12
  else none

/-- The definition that parameters which pass R62 stand for (R197). -/
def definitionOf (p : DefineParams) : Definition where
  priority := p.priority.toNat
  mode := if p.mode = 0 then .step else .scan
  source :=
    if p.source = 0 then .internal p.period.toNat
    else if p.source = 1 then .line (lineOf p.paceLine) (edgeOf p.paceEdge)
    else .soft
  start :=
    if p.start = 0 then .immediate
    else if p.start = 1 then .line (lineOf p.startLine) (edgeOf p.startEdge)
    else .limit (Fin.ofNat 32 p.startLine.toNat) (directionOf p.startEdge)
  timeout := p.timeout.toNat
  stop := if p.stop = 0 then .none else .line (lineOf p.stopLine) (edgeOf p.stopEdge)
  count := p.count
  depth := p.depth.toNat
  bufferPolicy := if p.bufferPolicy = 0 then .halt else .discard
  slipPolicy := if p.slipPolicy = 0 then .count else .halt
  format := if p.format = 0 then .packed else .framed
  flush := p.flush.toNat
  clearCounters := p.clearCounters

/-- The line of a LINE pacing source. -/
def Definition.paceLine? (d : Definition) : Option LineId :=
  match d.source with
  | .line l _ => some l
  | .internal _ | .soft => none

/-- The line of a LINE start trigger. -/
def Definition.startLine? (d : Definition) : Option LineId :=
  match d.start with
  | .line l _ => some l
  | .immediate | .limit _ _ => none

/-- The line of a LINE stop trigger. -/
def Definition.stopLine? (d : Definition) : Option LineId :=
  match d.stop with
  | .line l _ => some l
  | .none => none

/-- The lines a definition names, in the order pacing, start, stop (R66 check 4). -/
def Definition.linesNamed (d : Definition) : List LineId :=
  d.paceLine?.toList ++ d.startLine?.toList ++ d.stopLine?.toList

/-! ### Line settings (R197) -/

/-- The mode and fields of a line setting, if it is one R165 accepts in its checks 2 and 3. -/
def lineModeOf (setting : Half) : Option LineMode :=
  let mode := setting.setWidth 8
  let second : Byte := setting.extractLsb' 8 8
  if mode = 1 then (if second = 0 then some .input else none)
  else if mode = 2 then
    (if second = 0 then some (.output false) else if second = 1 then some (.output true) else none)
  else if mode = 3 then
    let source := second.toNat % 16
    let kind := second.toNat / 16
    if 8 ≤ source then none
    else if kind = 1 then some (.event (Fin.ofNat 8 source) .runActive)
    else if kind = 2 then some (.event (Fin.ofNat 8 source) .scanStart)
    else if kind = 3 then some (.event (Fin.ofNat 8 source) .bufferRetired)
    else none
  else none

end Sys2Proof.Machine
end

