-- ==== Sys2Proof/Machine/Flags.lean ====
section
/-!
DEFINITION. What is worked out from the state rather than held: line levels (R163), what is in use (R32, R164), the
STATUS flags (R7, R181), the register window as it reads (R180), and the region of a sample (R36).
-/

namespace Sys2Proof.Machine

open Sys2Proof

/-! ### Line levels (R163) -/

/-- The level of a line. -/
def State.lineLevel (s : State) (l : LineId) : Bool :=
  match (s.line l).mode with
  | .input => (s.line l).seen
  | .output level => level
  | .event c .runActive => (s.ctx c).state == .running || (s.ctx c).state == .stopping
  | .event _ .scanStart | .event _ .bufferRetired => (s.line l).pulseEnd.isSome

/-- The line snapshot: bit k is the level of line k. -/
def State.lineSnapshot (s : State) : Half := BitVec.ofFnLE fun l : Fin 16 => s.lineLevel l

/-! ### In use -/

/-- A sequence names a channel: a step's input is it, or is the DIFF channel whose partner it is (R32). -/
def State.sequenceNames (s : State) (steps : List Step) (ch : ChanId) : Bool :=
  steps.any fun st =>
    st.input == ch.val ||
      (List.finRange 32).any fun n => n.val == st.input && (s.chan n).mode == .diff && n.val + 16 == ch.val

/-- A channel is in use (R32). -/
def State.channelInUse (s : State) (ch : ChanId) : Bool :=
  s.ctxs.toList.any fun x => x.state.active && s.sequenceNames x.steps ch

/-- A line is in use (R164). -/
def State.lineInUse (s : State) (l : LineId) : Bool :=
  s.ctxs.toList.any (fun x => x.state.active && x.definition.linesNamed.contains l) ||
    s.lines.counters.toList.any fun k => k.source.map (·.1) == some l

/-- Some context is ARMED, RUNNING or STOPPING (R130 check 2). -/
def State.anyActive (s : State) : Bool := s.ctxs.toList.any fun x => x.state.active

/-! ### Rings and intake -/

/-- The unfetched entries of a ring (R2). -/
def Ring.unfetched (r : Ring) : Nat := (r.tail + r.size - r.head) % r.size

/-- A ring the arbiter may serve. -/
def Ring.waiting (r : Ring) : Bool := r.state == .active && r.unfetched != 0

/-- Some ACTIVE ring has unfetched entries. -/
def State.anyWaiting (s : State) : Bool := s.intake.rings.toList.any Ring.waiting

/-- The pending table is full or the backlog holds 24 or more (R7). -/
def State.intakeFull (s : State) : Bool :=
  Config.pendingEntries ≤ s.intake.table.length || Config.pauseLevel ≤ s.cpl.backlog.length

/-- INTAKE_PAUSED (R7). -/
def State.intakePaused (s : State) : Bool :=
  s.link.device == .online && s.anyWaiting && s.intakeFull

/-- The completion ring is full (R18). -/
def CompletionWriter.full (c : CompletionWriter) : Bool := (c.tail + 1) % c.size == c.head

/-! ### The register window as it reads (R180) -/

/-- A bit as a word at a bit place. -/
def bitAt (b : Bool) (k : Nat) : Word := (if b then 1 else 0 : Word) <<< k

/-- INT_CAUSE's values (09 section 9.1). -/
def IntCause.code : IntCause → Word
  | .none => 0
  | .count => 1
  | .time => 2
  | .failed => 3

/-- STATUS as it reads. -/
def State.statusWord (s : State) : Word :=
  bitAt (s.link.device == .online) 0 ||| bitAt (s.link.device == .failed) 1 |||
    bitAt s.link.regs.configError 2 ||| bitAt s.intakePaused 3 ||| bitAt (s.conv.source == .default) 4 |||
    (word s.link.regs.check &&& 0xF) <<< 8

/-- CONTROL as it reads: ENABLE is 1 in ONLINE and FAILED (R182, R184). -/
def State.controlWord (s : State) : Word :=
  bitAt (s.link.device != .offline) 0 ||| bitAt s.link.regs.intEnable 1

/-- IDENT. -/
def identWord : Word := (0xE17 : Word) <<< 20 ||| (832 : Word) <<< 8 ||| Config.revision.setWidth 32

/-- INT_COALESCE as it reads. -/
def Registers.coalesceWord (r : Registers) : Word :=
  r.intCount.setWidth 32 ||| r.intTime.setWidth 32 <<< 16

/-- SUBMIT_TAILn as it reads: the last tail accepted, or 0 for an ABSENT ring (R3). -/
def Ring.tailWord (r : Ring) : Word := if r.state = .absent then 0 else word r.tail

/-- What a 32-bit read of the window at an offset returns. A read of INT_CAUSE changes it besides (INT_CAUSE_READ). DESIGN
CHOICE: the low half of a 64-bit register lies at its lower offset (log 34). -/
def State.readRegister (s : State) (offset : Nat) : Word :=
  let r := s.link.regs
  match offset with
  | 0x00 => identWord
  | 0x04 => s.controlWord
  | 0x08 => s.statusWord
  | 0x0C => r.intCause.code
  | 0x10 => r.adminBase.extractLsb' 0 32
  | 0x14 => r.adminBase.extractLsb' 32 32
  | 0x18 => r.adminSize
  | 0x1C => r.cplSize
  | 0x20 => r.cplBase.extractLsb' 0 32
  | 0x24 => r.cplBase.extractLsb' 32 32
  | 0x28 => r.cplHead
  | 0x2C => r.coalesceWord
  | 0x30 => r.dmaLimit.extractLsb' 0 32
  | 0x34 => r.dmaLimit.extractLsb' 32 32
  | 0x38 => (s.ring 0).tailWord
  | 0x3C => (s.ring 1).tailWord
  | 0x40 => (s.ring 2).tailWord
  | 0x44 => (s.ring 3).tailWord
  | 0x48 => (s.ring 4).tailWord
  | _ => 0

/-- What a 64-bit read of the window returns: only the three address registers take one. -/
def State.readWide (s : State) (offset : Nat) : Option (BitVec 64) :=
  match offset with
  | 0x10 => some s.link.regs.adminBase
  | 0x20 => some s.link.regs.cplBase
  | 0x30 => some s.link.regs.dmaLimit
  | _ => none

/-- What a read of so many bits of the window returns; none where the endpoint answers it as an unsupported request. -/
def State.readWindow (s : State) (offset width : Nat) : Option (BitVec 64) :=
  if width = 64 then s.readWide offset
  else if width = 32 ∧ offset % 4 = 0 ∧ offset < 128 then some ((s.readRegister offset).setWidth 64)
  else none

/-! ### Limits (R36) -/

/-- The region of a corrected code against a window. -/
def Channel.region (ch : Channel) (code : Half) : LimitState :=
  if code.toNat < ch.low.toNat then .below
  else if ch.high.toNat < code.toNat then .above
  else .inside

end Sys2Proof.Machine
end

