-- ==== Sys2Proof/Machine/Formats.lean ====
section
/-!
DEFINITION. The structures the SQ-832 writes: completion records (R198, R199), frames (R201) and the REPORT snapshot
(R202), with the numbers of every named value they carry.
-/

namespace Sys2Proof.Machine

open Sys2Proof

/-! ### Numbers of named values (R199) -/

/-- Status codes. -/
def Status.code : Status → Nat
  | .ok => 0
  | .badOpcode => 1
  | .wrongRing => 2
  | .badContext => 3
  | .badParam => 4
  | .badAddress => 5
  | .badRing => 6
  | .ringBusy => 7
  | .badState => 8
  | .channelInUse => 9
  | .lineInUse => 10
  | .poolFull => 11
  | .stagingFull => 12
  | .stagingShort => 13
  | .queueFull => 14
  | .bufferTooSmall => 15
  | .buffersHeld => 16
  | .periodShort => 17
  | .settleShort => 18
  | .pairConflict => 19
  | .lineMode => 20
  | .calibrating => 21
  | .converterBusy => 22
  | .calFailed => 23
  | .badStep => 24
  | .fetchError => 25
  | .aborted => 26
  | .overtaken => 27
  | .superseded => 28
  | .cancelled => 29

/-- End reasons. -/
def EndReason.code : EndReason → Nat
  | .countDone => 64
  | .stopTrigger => 65
  | .stopped => 66
  | .aborted => 67
  | .triggerTimeout => 68
  | .overrun => 69
  | .pacingOverrun => 70

/-- BUFFER statuses. -/
def BufferStatus.code : BufferStatus → Nat
  | .filled => 1
  | .partial' => 2
  | .aborted => 3
  | .unused => 4

/-- Limit states and regions. -/
def LimitState.code : LimitState → Nat
  | .unknown => 0
  | .inside => 1
  | .above => 2
  | .below => 3

/-- NOTICE statuses. -/
def NoticeStatus.code : NoticeStatus → Nat
  | .indexError => 1
  | .fetchError => 2

/-- The kind byte of a completion (section 10.3). -/
def CplStatus.kind : CplStatus → Nat
  | .command _ | .run _ => 1
  | .buffer _ => 2
  | .limit _ => 3
  | .notice _ => 4

/-- The status byte of a completion. -/
def CplStatus.code : CplStatus → Nat
  | .command s => s.code
  | .run r => r.code
  | .buffer s => s.code
  | .limit r => r.code
  | .notice s => s.code

/-- A number as a byte. -/
def byte (n : Nat) : Byte := BitVec.ofNat 8 n

/-! ### Completion records (R198) -/

/-- The 32 bytes of a completion record written with a phase. -/
def Completion.record (c : Completion) (phase : Bool) : List Byte :=
  leBytes 4 c.tag ++ leBytes 4 c.w0 ++ leBytes 4 c.w1 ++ leBytes 4 c.w2 ++ leBytes 6 c.stamp ++
    leBytes 2 (BitVec.ofNat 16 c.subHead) ++
    [byte c.status.kind, byte c.status.code, byte c.ring.val, c.context, 0, 0, 0, flagByte phase]

/-- The completion that answers a pending command, handed in at an instant (R21). -/
def PendingEntry.completion (e : PendingEntry) (a : Answer) (now : Time) : Completion where
  status := a.status
  ring := e.ring
  context := e.context
  tag := e.tag
  subHead := e.subHead
  w0 := a.w0
  w1 := a.w1
  w2 := a.w2
  stamp := stampOf (a.stamp.getD now)

/-- Value word 2 of a BUFFER completion: the frame count, and GAP in bit 31 (R199). -/
def bufferWord2 (frames : Nat) (gap : Bool) : Word := (word frames &&& 0xFFFFF) ||| bitAt gap 31

/-- The BUFFER completion of a buffer (R149). -/
def Buffer.completion (b : Buffer) (c : CtxId) (status : BufferStatus) (now : Time) : Completion where
  status := .buffer status
  ring := b.ring
  context := byte c.val
  tag := b.tag
  subHead := 0
  w0 := word b.used
  w1 := b.firstScan
  w2 := bufferWord2 b.frames b.gap
  stamp := stampOf now

/-- The NOTICE completion of a halted ring (R22). -/
def noticeCompletion (n : NoticeStatus) (ring : RingId) (head : Nat) (w0 w1 : Word) (now : Time) : Completion where
  status := .notice n
  ring := ring
  context := 0
  tag := 0
  subHead := head
  w0 := w0
  w1 := w1
  w2 := 0
  stamp := stampOf now

/-- Value word 2 of an ARM completion: discarded, history delivered, and slips held at 255 (R88, R199). -/
def armWord2 (r : Run) : Word :=
  (r.discarded &&& 0xFFFF) ||| (r.historyDelivered &&& 0xFF) <<< 16 |||
    word (min r.slips.toNat 255) <<< 24

/-! ### Frames (R201) -/

/-- The 16-byte header of a FRAMED frame. -/
def Frame.header (f : Frame) : List Byte :=
  leBytes 4 (f.scan.getD 0) ++ leBytes 6 (stampOf f.firstTick) ++ leBytes 2 f.lines ++
    [flagByte f.history ||| flagByte f.gap <<< 1, 0, 0, 0]

/-- The bytes of a frame in a format, padded with zeros to the frame size. -/
def Frame.bytes (f : Frame) (format : Format) (size : Nat) : List Byte :=
  let samples := f.samples.flatMap (leBytes 2 ·)
  match format with
  | .packed => samples
  | .framed =>
    let body := f.header ++ samples
    body ++ List.replicate (size - body.length) 0

/-! ### The REPORT snapshot (R202) -/

/-- Ring states in the snapshot. -/
def RingState.code : RingState → Nat
  | .absent => 0
  | .active => 1
  | .halted => 2

/-- Context states in the snapshot. -/
def CtxState.code : CtxState → Nat
  | .unbound => 0
  | .defined => 1
  | .loading => 2
  | .ready => 3
  | .armed => 4
  | .running => 5
  | .stopping => 6
  | .halted => 7

/-- Table sources in the snapshot. -/
def TableSource.code : TableSource → Nat
  | .factory => 1
  | .calibrated => 2
  | .default => 3

/-- So many zero bytes. -/
def zeros (n : Nat) : List Byte := List.replicate n 0

/-- A number as a little-endian 16-bit field. -/
def half (n : Nat) : List Byte := leBytes 2 (BitVec.ofNat 16 n)

/-- One ring's 8 bytes of the snapshot. -/
def Ring.reportBytes (r : Ring) : List Byte :=
  [byte r.state.code, byte r.weight] ++ half r.size ++ half r.head ++ half r.tail

/-- One context's 48 bytes of the snapshot. -/
def Ctx.reportBytes (x : Ctx) : List Byte :=
  [byte x.state.code, byte x.cap.quota, byte x.cap.queue.length, byte x.slots] ++ half x.cap.store.length ++
    zeros 2 ++ leBytes 4 x.run.numbered ++ leBytes 4 x.run.delivered ++ leBytes 4 x.run.dropped ++
    leBytes 4 x.run.discarded ++ leBytes 4 x.run.slips ++ leBytes 4 x.run.historyDelivered ++
    leBytes 4 x.run.nextScan ++ [byte ((x.run.endReason.map EndReason.code).getD 0)] ++ zeros 11

/-- The 512 bytes of the snapshot. -/
def State.reportBytes (s : State) : List Byte :=
  leBytes 4 s.statusWord ++ zeros 4 ++ leBytes 8 s.timeBase ++
    s.intake.rings.toList.flatMap Ring.reportBytes ++
    [byte s.intake.table.length, byte s.cpl.backlog.length, byte s.conv.source.code, byte s.unitsFree] ++
    half s.slotsFree ++ zeros 2 ++ leBytes 4 (s.counter 0).count ++ leBytes 4 (s.counter 1).count ++
    leBytes 2 s.lineSnapshot ++ leBytes 2 (s.out 0).code ++ leBytes 2 (s.out 1).code ++ zeros 2 ++
    s.ctxs.toList.flatMap Ctx.reportBytes ++ zeros 48

end Sys2Proof.Machine
end

