-- ==== Sys2Proof/Machine/HandIn.lean ====
section
/-!
DEFINITION. Handing completions in (R16, R20, R21): who claims a backlog entry, what joins the backlog when the claim
is met, and what moves on then. Also what a context's next completion is (R87, R150) and the settling of a flush
(R154, R155), the pulses of EVENT lines (R169), and deferred output updates (R177, R178).
-/

namespace Sys2Proof.Machine

open Sys2Proof

/-- An answer with a status code and value words, timestamped when it joins the backlog. -/
def answer (st : Status) (w0 w1 w2 : Word) : Answer := ⟨.command st, w0, w1, w2, none⟩

/-! ### EVENT lines (R169) -/

/-- A line's pulse begins or is lengthened: its pulse end is 1 µs after the event. -/
def Line.pulsed (l : Line) (now : Time) : Line := { l with pulseEnd := some (timeAfter now Config.pulseCounts) }

/-- The line is in EVENT mode for a kind of event of a context. -/
def Line.follows (l : Line) (c : CtxId) (k : EventKind) : Bool := l.mode == LineMode.event c k

/-- A line takes an event: it pulses if it follows it. -/
def Line.afterEvent (l : Line) (c : CtxId) (k : EventKind) (now : Time) : Line :=
  if l.follows c k then l.pulsed now else l

/-- An event of a kind of context `c`: every EVENT line that follows it pulses. -/
def State.pulse (s : State) (c : CtxId) (k : EventKind) : State :=
  { s with lines := { s.lines with lines := mapEach (·.afterEvent c k s.timeBase) s.lines.lines } }

/-! ### Deferred outputs (R177, R178) -/

/-- Output `o` takes a run event of context `c`: a matching update is applied and answered OK (R176, R177). -/
def State.applyUpdate (s : State) (ev : RunEvent) (c : CtxId) (o : Fin 2) : State × List Claim :=
  match (s.out o).update with
  | some d =>
    if d.event = ev ∧ d.ctx = c then
      (s.setOut o ⟨d.code, none⟩,
       [.command d.entry ⟨.command .ok, word o.val, d.code.setWidth 32, (s.out o).code.setWidth 32,
          some s.timeBase⟩])
    else (s, [])
  | none => (s, [])

/-- The Output Unit takes a run event: output 0's update, then output 1's (R177). -/
def State.runEvent (s : State) (ev : RunEvent) (c : CtxId) : State × List Claim :=
  let a := s.applyUpdate ev c 0
  let b := a.1.applyUpdate ev c 1
  (b.1, a.2 ++ b.2)

/-- Output `o` is told that context `c` was reset or released: an update for it is cancelled (R178). -/
def State.cancelUpdate (s : State) (c : CtxId) (o : Fin 2) : State × List Claim :=
  match (s.out o).update with
  | some d =>
    if d.ctx = c then
      (s.setOut o ⟨(s.out o).code, none⟩,
       [.command d.entry (answer .cancelled (word o.val) (d.code.setWidth 32) ((s.out o).code.setWidth 32))])
    else (s, [])
  | none => (s, [])

/-- The Output Unit cancels the updates of a context: output 0's, then output 1's (R178). -/
def State.cancelUpdates (s : State) (c : CtxId) : State × List Claim :=
  let a := s.cancelUpdate c 0
  let b := a.1.cancelUpdate c 1
  (b.1, a.2 ++ b.2)

/-! ### A context's next completion (R87, R150) -/

/-- The completion a context hands in next. -/
inductive NextHandIn where
  /-- The first buffer of the return list. -/
  | returnBuffer (b : Buffer)
  /-- The command that waits behind the returned buffers. -/
  | returnCommand (entry : Nat) (answer : Answer)
  /-- The open buffer, due to retire. -/
  | retire (b : Buffer) (status : BufferStatus)
  /-- The ARM completion of the run that has ended. -/
  | armAnswer (entry : Nat) (reason : EndReason)
deriving DecidableEq, Repr

/-- The run has been flushed or given up and the converter is no longer held for it (R87, R122, R154, R155). -/
def Ctx.runEnded (x : Ctx) (holds : Bool) : Bool :=
  (x.state == .armed || x.state == .stopping) && x.cap.store.isEmpty && !x.cap.writing && !holds

/-- The ARM completion, if it is due (R87 step 2). -/
def Ctx.armDue (x : Ctx) (holds : Bool) : Option NextHandIn :=
  match x.run.endReason, x.run.armEntry with
  | some reason, some entry => if x.runEnded holds then some (.armAnswer entry reason) else none
  | _, _ => none

/-- What a context hands in next, if anything is due. The return list comes before the queue, whose buffers were
accepted later (R142, R150). A buffer due ABORTED waits for its write to end (R156). -/
def Ctx.nextHandIn (x : Ctx) (holds : Bool) : Option NextHandIn :=
  match x.cap.returns with
  | .buffer b :: _ => if b.due = some .aborted ∧ x.cap.writing then none else some (.returnBuffer b)
  | .command e a :: _ => some (.returnCommand e a)
  | [] =>
    match x.cap.queue with
    | b :: _ =>
      match b.due with
      | some status => some (.retire b status)
      | none => x.armDue holds
    | [] => x.armDue holds

/-- In a fault end with no buffer left within the limit, the frames that wait are released and counted dropped (R155). -/
def Ctx.giveUpFrames (x : Ctx) : Ctx :=
  if x.cap.faultLimit = some 0 ∧ x.cap.store ≠ [] then
    { x with
      run := { x.run with dropped := x.run.dropped + word x.cap.store.length }
      cap := { x.cap with store := [] } }
  else x

/-- With no frame left, an open buffer becomes due to retire PARTIAL (R154). -/
def Ctx.openPartial (x : Ctx) : Ctx :=
  match x.cap.store, x.cap.queue with
  | [], b :: rest =>
    if b.opened ∧ b.due = none then
      { x with cap := { x.cap with queue := { b with due := some .partial' } :: rest, flushDeadline := none } }
    else x
  | _, _ => x

/-- The item of a return list is a buffer, whose retirement has not joined the backlog. -/
def ReturnItem.isBuffer : ReturnItem → Bool
  | .buffer _ => true
  | .command _ _ => false

/-- The flush is done: no frame is left, no buffer at the head of the queue is open or due, and no buffer of the return
list waits, so every retirement of the context has joined the backlog (R154, R155). -/
def Ctx.flushDone (x : Ctx) : Bool :=
  x.cap.store.isEmpty && (x.cap.queue.head?.all fun b => !b.opened && b.due.isNone) &&
    !x.cap.returns.any ReturnItem.isBuffer

/-- Once every retirement of a fault end's flush has joined the backlog, the fault limit becomes none (R155). -/
def Ctx.clearLimit (x : Ctx) : Ctx :=
  if x.flushDone then { x with cap := { x.cap with faultLimit := none } } else x

/-- A flush moves on (R154, R155): in STOPPING, while no frame is being written. -/
def Ctx.settled (x : Ctx) : Ctx :=
  if x.state = .stopping ∧ !x.cap.writing then x.giveUpFrames.openPartial.clearLimit else x

/-! ### Joining the backlog -/

/-- The BARRIERs of a ring that no earlier command of the ring holds back any more (R23). -/
def State.readyBarriers (s : State) (r : RingId) : List Nat :=
  s.intake.barriers.filter fun b =>
    s.intake.table.any (fun e => e.age == b && e.ring == r) &&
      !s.intake.table.any fun e => e.ring == r && e.age < b

/-- The BARRIERs of a list no longer wait. -/
def State.dropBarriers (s : State) (done : List Nat) : State :=
  { s with intake := { s.intake with barriers := s.intake.barriers.filter fun b => !done.contains b } }

/-- A calibration is in flight until its completion joins the backlog (R130, R133). -/
def State.endCalibration (s : State) (entry : Nat) : State :=
  if s.conv.cal.entry = some entry then
    { s with conv := { s.conv with cal := { s.conv.cal with entry := none } } }
  else s

/-- The completion of a pending command joins the backlog: its entry is freed, and the BARRIERs it held back become
due (R15, R16, R23). -/
def State.joinCommand (s : State) (id : Nat) (a : Answer) : State × List Claim :=
  match s.entry? id with
  | none => (s, [])
  | some e =>
    let s1 := ((s.pushCompletion (e.completion a s.timeBase)).freeEntry id).endCalibration id
    let ready := s1.readyBarriers e.ring
    (s1.dropBarriers ready, ready.map fun b => .command b (answer .ok 0 0 0))

/-- A context claims a backlog entry if something of it is due and it is not in line already (R20, R150). -/
def State.contextClaim (s : State) (c : CtxId) : List Claim :=
  if ((s.ctx c).nextHandIn (s.holdsConverter c)).isSome ∧ ¬(s.cpl.claimants.contains (.context c)) then
    [.context c]
  else []

/-- A BUFFER completion of a context joins the backlog, and its BUFFER_RETIRED lines pulse (R150, R169). -/
def State.joinBuffer (s : State) (c : CtxId) (b : Buffer) (status : BufferStatus) : State :=
  (s.pushCompletion (b.completion c status s.timeBase)).pulse c .bufferRetired

/-- The first item of a context's return list is gone. -/
def Ctx.dropReturn (x : Ctx) : Ctx := { x with cap := { x.cap with returns := x.cap.returns.tail } }

/-- A retired buffer leaves the queue; in a fault end the limit falls by one (R150, R155). -/
def Ctx.dropHead (x : Ctx) : Ctx :=
  { x with cap := { x.cap with
      queue := x.cap.queue.tail
      faultLimit := x.cap.faultLimit.map (· - 1) } }

/-- The answers of a run's STOPs and ABORTs once its end reason stands (R87 steps 3 and 4, R89). -/
def Run.tail (r : Run) (reason : EndReason) : List TailItem :=
  r.stops.map (fun e =>
    ⟨e, answer (if reason = .aborted then .overtaken else .ok) (word reason.code) 0 0⟩) ++
    r.aborts.map fun e => ⟨e, answer .ok 0 0 0⟩

/-- The answer of the ARM (R88). -/
def Run.armAnswer (r : Run) (reason : EndReason) : Answer :=
  ⟨.run reason, r.delivered, r.dropped, armWord2 r, none⟩

/-- The state a run's end leaves its context in (R87). -/
def EndReason.stateAfter : EndReason → CtxState
  | .overrun | .pacingOverrun => .halted
  | .countDone | .stopTrigger | .stopped | .aborted | .triggerTimeout => .ready

/-- The context leaves its run as the ARM completion joins the backlog (R87). -/
def Ctx.leaveRun (x : Ctx) (reason : EndReason) : Ctx :=
  { x with
    state := reason.stateAfter
    run := { x.run with endReason := none, armEntry := none, stops := [], aborts := [] } }

/-- The next STOP or ABORT of an answered run joins the backlog. After the last, the run end is given to the Output
Unit (R87, R177). DESIGN CHOICE (log 33): the Output Unit takes it in this event. -/
def State.joinTail (s : State) (c : CtxId) : List TailItem → State × List Claim
  | [] => s.runEvent .runEnd c
  | it :: rest =>
    let j := s.joinCommand it.entry it.answer
    match rest with
    | [] =>
      let o := j.1.runEvent .runEnd c
      (o.1, o.2 ++ j.2)
    | _ :: _ => (j.1, .runTail c rest :: j.2)

/-- The ARM completion joins the backlog and the context leaves its run (R87, R88). With no STOP and no ABORT kept, the
Output Unit takes the run end in this event (log 33). -/
def State.joinArm (s : State) (c : CtxId) (entry : Nat) (reason : EndReason) : State × List Claim :=
  let x := s.ctx c
  let j := s.joinCommand entry (x.run.armAnswer reason)
  let s1 := j.1.modCtx c (·.leaveRun reason)
  match x.run.tail reason with
  | [] =>
    let o := s1.runEvent .runEnd c
    (o.1, o.2 ++ j.2)
  | it :: rest => (s1, .runTail c (it :: rest) :: j.2)

/-- Context `c`'s next completion joins the backlog, and what follows it becomes due. -/
def State.joinContext (s : State) (c : CtxId) : State × List Claim :=
  match (s.ctx c).nextHandIn (s.holdsConverter c) with
  | none => (s, [])
  | some (.returnBuffer b) =>
    let s1 := (s.joinBuffer c b (b.due.getD .unused)).modCtx c fun x => x.dropReturn.settled
    (s1, s1.contextClaim c)
  | some (.returnCommand e a) =>
    let j := (s.modCtx c Ctx.dropReturn).joinCommand e a
    (j.1, j.1.contextClaim c ++ j.2)
  | some (.retire b status) =>
    let s1 := (s.joinBuffer c b status).modCtx c fun x => x.dropHead.settled
    (s1, s1.contextClaim c)
  | some (.armAnswer e reason) =>
    let j := s.joinArm c e reason
    (j.1, j.2 ++ j.1.contextClaim c)

/-- A claim is met: its completion joins the backlog. Also gives the claims that become due by it. -/
def State.joinClaim (s : State) : Claim → State × List Claim
  | .command id a => s.joinCommand id a
  | .context c => s.joinContext c
  | .runTail c items => s.joinTail c items
  | .notice n ring head w0 w1 => (s.pushCompletion (noticeCompletion n ring head w0 w1 s.timeBase), [])

/-- Claimants begin to wait, in order (R20). -/
def State.wait (s : State) (claims : List Claim) : State :=
  { s with cpl := { s.cpl with claimants := s.cpl.claimants ++ claims } }

/-- Claims are made in order: each joins the backlog at once if it is open, or waits; a claim that becomes due by
another is made after those that were made before it (R20; log 14). At most `fuel` join; the backlog's 32 entries
bound it. -/
def State.handInUpTo : Nat → List Claim → State → State
  | _, [], s => s
  | 0, claims, s => s.wait claims
  | fuel + 1, cl :: rest, s =>
    if s.backlogOpen then
      let j := s.joinClaim cl
      State.handInUpTo fuel (rest ++ j.2) j.1
    else s.wait (cl :: rest)

/-- More joins than one event can bring: 32 fill the backlog. -/
def handInFuel : Nat := 96

/-- Hand claims in (R20). -/
def State.handIn (s : State) (claims : List Claim) : State := State.handInUpTo handInFuel claims s

/-- A command's outcome is settled: its completion is handed in (R16). -/
def State.complete (s : State) (entry : Nat) (st : Status) (w0 w1 w2 : Word) : State :=
  s.handIn [.command entry (answer st w0 w1 w2)]

/-- A context's flush moves on and whatever of it is due is handed in. -/
def State.settleCtx (s : State) (c : CtxId) : State :=
  let s1 := s.modCtx c Ctx.settled
  s1.handIn (s1.contextClaim c)

end Sys2Proof.Machine
end

