-- ==== Sys2Proof/Machine/Converter.lean ====
section
/-!
DEFINITION. The converter: slots (R115, R116), the arbiter (R117 to R122), correction (R125, R126), the limit check and
its report (R36 to R42), the nonvolatile copies (R128, R129) and the arithmetic of a calibration (R131, R132).
-/

namespace Sys2Proof.Machine

open Sys2Proof

/-! ### Slots -/

/-- The index of a correction entry: 8 × range + gain code (R125). -/
def corrIndex (range : Range) (gain : Nat) : Fin 16 :=
  Fin.ofNat 16 (match range with
    | .bipolar => gain
    | .unipolar => 8 + gain)

/-- What a step's slot converts, taken at the start of the slot (R29, R31, R123, R124). -/
def State.slotInput (s : State) (st : Step) : SlotInput :=
  if h : st.input < 32 then
    let ch := s.chan ⟨st.input, h⟩
    .analog ⟨st.input, h⟩ ch.mode (if st.gain ≤ 7 then st.gain else ch.gain) ch.range
  else if st.input = 32 then .digital s.lineSnapshot
  else if st.input = 33 then .digital ((s.counter 0).count.setWidth 16)
  else .digital ((s.counter 1).count.setWidth 16)

/-- The step of a position of a context's sequence. Every position of a sequence has one (R45). -/
def Ctx.stepOf (x : Ctx) (pos : Nat) : Step := (stepAt x.steps pos).getD ⟨0, 15, 0, 1⟩

/-- The slot of a position that begins at an instant (R115). -/
def State.slotAt (s : State) (c : CtxId) (pos : Nat) (start : Time) : Slot :=
  let st := (s.ctx c).stepOf pos
  ⟨pos, start, timeAfter start st.slotCounts, s.slotInput st⟩

/-! ### The arbiter -/

/-- The contexts whose request waits: those whose tick state is LATCHED (R118). -/
def State.requests (s : State) : List CtxId := allContexts.filter fun c => (s.ctx c).pacing.tick == .latched

/-- The search order of the round robin: from the context after the last granted, wrapping from 7 to 0 (R119). -/
def searchFrom (last : Option CtxId) : List CtxId :=
  match last with
  | none => allContexts
  | some l => allContexts.map fun k => k + l + 1

/-- No context of a list has a lower priority value than `c`'s (R119). -/
def State.topPriority (s : State) (among : List CtxId) (c : CtxId) : Bool :=
  among.all fun d => (s.ctx c).definition.priority ≤ (s.ctx d).definition.priority

/-- The context the arbiter chooses among those that wait (R119 steps 2 and 3). -/
def State.chosenRequest (s : State) : Option CtxId :=
  (searchFrom s.conv.lastGranted).find? fun c => s.requests.contains c && s.topPriority s.requests c

/-- The converter is granted to a context: one slot in STEP mode, a whole scan in SCAN mode (R104, R116). -/
def State.grantTo (s : State) (c : CtxId) : State :=
  let x := s.ctx c
  let now := s.timeBase
  let grant : Grant :=
    match x.definition.mode with
    | .step =>
      let slot := s.slotAt c x.pacing.nextPos now
      ⟨c, slot, x.pacing.nextPos, slot.stop⟩
    | .scan => ⟨c, s.slotAt c 0 now, scanPositions x.steps - 1, timeAfter now (scanCounts x.steps)⟩
  let s1 := s.setCtx c { x with pacing := { x.pacing with tick := .granted } }
  { s1 with conv := { s1.conv with holder := .context grant, lastGranted := some c } }

/-- The arbiter selects if the converter is free and a request waits (R119, R120): a calibration first. -/
def State.arbitrate (s : State) : State :=
  if s.link.device = .online ∧ s.conv.holder = .none then
    if s.conv.calRequest then
      { s with conv := { s.conv with holder := .calibration, calRequest := false } }
    else
      match s.chosenRequest with
      | some c => s.grantTo c
      | none => s
  else s

/-- The converter is given up. -/
def State.freeConverter (s : State) : State := { s with conv := { s.conv with holder := .none } }

/-- A context's tick state becomes FREE. -/
def Ctx.freeTick (x : Ctx) : Ctx := { x with pacing := { x.pacing with tick := .free } }

/-- An ABORT takes back the grant its context holds, and the arbiter selects (R121). -/
def State.takeBackGrant (s : State) (c : CtxId) : State :=
  if s.holdsConverter c then (s.freeConverter.modCtx c Ctx.freeTick).arbitrate else s

/-! ### Correction (R126) -/

/-- A whole number held to 0 to 65535 (R126). -/
def clampCode (v : Int) : Half := BitVec.ofNat 16 (min v.toNat 65535)

/-- The corrected sample of a raw code: exact, rounded to the nearest with a half upward, clamped. -/
def CorrEntry.correct (e : CorrEntry) (raw : Half) : Half :=
  clampCode ((((raw.toNat : Int) - e.offset) * e.scale + 32768) / 65536)

/-! ### The limit check (R36 to R42) -/

/-- A limit event (R39). -/
structure LimitEvent where
  channel : ChanId
  region : LimitState
  previous : LimitState
  code : Half
  context : CtxId
  time : Time
deriving DecidableEq, Repr

/-- The event a compared sample raises: its region differs from the state, unless it is INSIDE out of UNKNOWN (R37). -/
def raisesEvent (before region : LimitState) : Bool :=
  before != region && !(before == .unknown && region == .inside)

/-- A corrected sample reaches the Channel Table: it moves the limit state of an enabled entry and may raise an
event (R36, R37). -/
def State.limitCheck (s : State) (n : ChanId) (code : Half) (c : CtxId) (time : Time) :
    State × Option LimitEvent :=
  let ch := s.chan n
  if ch.limitEnable then
    let region := ch.region code
    (s.setChan n { ch with limit := region },
     if raisesEvent ch.limit region then some ⟨n, region, ch.limit, code, c, time⟩ else none)
  else (s, none)

/-- The LIMIT completion of an event (R42). -/
def LimitEvent.completion (e : LimitEvent) : Completion where
  status := .limit e.region
  ring := 0
  context := byte e.context.val
  tag := 0
  subHead := 0
  w0 := word e.channel.val
  w1 := e.code.setWidth 32
  w2 := word e.previous.code
  stamp := stampOf e.time

/-- The report logic takes an event (R40); with the backlog full nothing is posted and the report stays armed (R41). -/
def State.reportLimit (s : State) (e : LimitEvent) : State :=
  let ch := s.chan e.channel
  if ch.report ∧ ch.armed ∧ s.backlogOpen then
    (s.pushCompletion e.completion).setChan e.channel { ch with armed := false }
  else s

/-! ### Nonvolatile copies (R128, R129) -/

/-- An entry within the ranges of R125. -/
def CorrEntry.inRange (e : CorrEntry) : Bool :=
  -2048 ≤ e.offset && e.offset ≤ 2047 && 61440 ≤ e.scale && e.scale ≤ 69632

/-- A copy is valid (R128). -/
def NvCopy.valid (n : NvCopy) : Bool := n.intact && n.entries.toList.all CorrEntry.inRange

/-- The newer of the valid copies (R128). -/
def Conversion.newerCopy (v : Conversion) : Option (Fin 2) :=
  if v.nv[0].valid then
    if v.nv[1].valid ∧ v.nv[0].generation.toNat < v.nv[1].generation.toNat then some 1 else some 0
  else if v.nv[1].valid then some 1
  else none

/-- The older copy, which a store writes (R128). -/
def Conversion.olderCopy (v : Conversion) : Fin 2 :=
  if !v.nv[0].valid then 0
  else if !v.nv[1].valid then 1
  else if v.newerCopy = some 0 then 1 else 0

/-- The table source a copy's kind gives (R127). -/
def CopyKind.source : CopyKind → TableSource
  | .factory => .factory
  | .calibrated => .calibrated

/-- The live table is loaded from the nonvolatile copies at power-on (R129). -/
def Conversion.loadTable (v : Conversion) : Conversion :=
  match v.newerCopy with
  | some k => { v with table := v.nv[k.val].entries, source := v.nv[k.val].kind.source }
  | none => { v with table := Vector.replicate 16 CorrEntry.nominal, source := .default }

/-- The generation a store writes (R133). -/
def Conversion.nextGeneration (v : Conversion) : Word :=
  match v.newerCopy with
  | some k => v.nv[k.val].generation + 1
  | none => 1

/-! ### The arithmetic of a calibration (R131, R132) -/

/-- The nominal codes L and H of an entry's references (R131). -/
def nominalCodes (k : Fin 16) : Nat × Nat := if k.val < 8 then (8192, 57344) else (4096, 61440)

/-- A quotient rounded to the nearest whole number, a half upward; the divisor is positive. -/
def roundDiv (num den : Int) : Int := (2 * num + den) / (2 * den)

/-- The scale of entry `k` from its readings (R132); it is used only where h is above l. -/
def derivedScale (k : Fin 16) (l h : Half) : Int :=
  let (lo, hi) := nominalCodes k
  roundDiv (65536 * ((hi : Int) - lo)) ((h.toNat : Int) - l.toNat)

/-- The offset of entry `k` from its readings (R132). -/
def derivedOffset (k : Fin 16) (l h : Half) : Int :=
  let (lo, hi) := nominalCodes k
  roundDiv ((l.toNat : Int) * ((hi : Int) - lo) - lo * ((h.toNat : Int) - l.toNat)) ((hi : Int) - lo)

/-- The reason code of the first check of R132 that the readings fail, if one fails. -/
def calibrationFault (k : Fin 16) (l h : Half) : Option Nat :=
  if h.toNat ≤ l.toNat then some 2
  else if derivedScale k l h < 61440 ∨ 69632 < derivedScale k l h then some 2
  else if derivedOffset k l h < -2048 ∨ 2047 < derivedOffset k l h then some 1
  else none

/-- The entry that readings which pass R132 give. -/
def derivedEntry (k : Fin 16) (l h : Half) : CorrEntry := ⟨derivedOffset k l h, (derivedScale k l h).toNat⟩

end Sys2Proof.Machine
end

