-- ==== Sys2Proof/Machine/Runs.lean ====
section
/-!
DEFINITION. Runs: the start trigger (R71, R110), ticks and the tick latch (R98, R102 to R106), scans and their frames
(R70, R73, R138, R139), and the ways a run ends (R72, R75, R78, R82, R83, R85, R114).
-/

namespace Sys2Proof.Machine

open Sys2Proof

/-! ### The end of pacing (R114) -/

/-- Pacing ends: a latched tick is cleared, a granted one keeps the converter. -/
def Pacing.ended (p : Pacing) : Pacing :=
  { p with
    phase := .off
    watcher := .none
    deadline := none
    countReached := false
    nextPos := 0
    tick := if p.tick = .latched then .free else p.tick }

/-- Pacing ends for a context. -/
def Ctx.endPacing (x : Ctx) : Ctx := { x with pacing := x.pacing.ended }

/-! ### The scan in progress -/

/-- A frame record being filled: that of the scan in progress, or of a scan latched and not granted. -/
def Frame.isFilling (f : Frame) : Bool := f.cond == .filling

/-- The context has a scan in progress or latched. -/
def Ctx.hasFilling (x : Ctx) : Bool := x.cap.store.any Frame.isFilling

/-- The record of the scan in progress is released (R141). -/
def Ctx.releaseFilling (x : Ctx) : Ctx :=
  { x with cap := { x.cap with store := x.cap.store.filter fun f => !f.isFilling } }

/-- The scan in progress, if there is one, is discarded and counted (R74, R78, R85). -/
def Ctx.discardFilling (x : Ctx) : Ctx :=
  if x.hasFilling then
    { x.releaseFilling with run := { x.run with discarded := x.run.discarded + 1 } }
  else x

/-- The scan latched and not granted is withdrawn: its record is released and its number given back (R73, R78). It
stops counting toward the scan count if it was begun in RUNNING (R75). -/
def Ctx.withdrawScan (x : Ctx) : Ctx :=
  let wasHistory := x.cap.store.any fun f => f.isFilling && f.history
  { x.releaseFilling with
    run := { x.run with
      numbered := x.run.numbered - 1
      nextScan := x.run.nextScan - 1
      begun := if wasHistory then x.run.begun else x.run.begun - 1 } }

/-- The sample of a position is placed in the record being filled (R140). -/
def Frame.place (f : Frame) (pos : Nat) (code : Half) : Frame :=
  if f.isFilling then { f with samples := f.samples.set pos code } else f

/-- The record being filled becomes COMPLETE (R140). -/
def Frame.completed (f : Frame) : Frame := if f.isFilling then { f with cond := .complete } else f

/-- The frame of the scan in progress is complete (R104, R140). -/
def Ctx.completeFrame (x : Ctx) : Ctx :=
  { x with cap := { x.cap with store := x.cap.store.map Frame.completed } }

/-! ### Entering STOPPING -/

/-- The context goes to STOPPING with an end reason; pacing ends (R78, R79, R114). -/
def Ctx.toStopping (x : Ctx) (reason : EndReason) : Ctx :=
  { x.endPacing with state := .stopping, run := { x.run with endReason := some reason } }

/-- An orderly end of a RUNNING context: STOP or stop trigger (R76, R78). -/
def Ctx.stopRun (x : Ctx) (reason : EndReason) : Ctx :=
  match x.definition.mode with
  | .scan => if x.pacing.tick = .latched then x.withdrawScan.toStopping reason else x.toStopping reason
  | .step => x.discardFilling.toStopping reason

/-- A fault end begins: the scan in progress is discarded and the fault limit is set (R85, R155). -/
def Ctx.faultEnd (x : Ctx) (reason : EndReason) : Ctx :=
  let y := x.discardFilling.toStopping reason
  { y with cap := { y.cap with faultLimit := some y.cap.queue.length } }

/-- A run ends in ARMED by its timeout or a STOP: every history frame is given up (R72, R157). -/
def Ctx.endInArmed (x : Ctx) (reason : EndReason) : Ctx :=
  { x.endPacing with
    run := { x.run with endReason := some reason }
    cap := { x.cap with store := [] } }

/-- The scan count is reached and the last scan's frame is complete or dropped (R75). -/
def Ctx.countDone (x : Ctx) : Ctx := x.toStopping .countDone

/-! ### ABORT (R82, R83, R156, R157, R158) -/

/-- The queue moves to the back of the return list: the open buffer due ABORTED, the others UNUSED (R156). -/
def Ctx.returnQueue (x : Ctx) : Ctx :=
  { x with cap := { x.cap with
      returns := x.cap.returns ++ x.cap.queue.map fun b =>
        .buffer { b with due := some (if b.opened then .aborted else .unused) }
      queue := []
      faultLimit := none
      flushDeadline := none } }

/-- ABORT of a context in RUNNING or STOPPING: every frame not being written is discarded (R82, R156). -/
def Ctx.abortRun (x : Ctx) : Ctx :=
  let kept := x.cap.store.filter fun f => f.cond == .writing
  let gone := x.cap.store.length - kept.length
  let y := x.toStopping .aborted
  Ctx.returnQueue { y with
    run := { y.run with discarded := y.run.discarded + word gone }
    cap := { y.cap with store := kept } }

/-- ABORT of a context in ARMED (R83, R157). -/
def Ctx.abortArmed (x : Ctx) : Ctx := (x.endInArmed .aborted).returnQueue

/-! ### The start trigger (R71, R110) -/

/-- The history frames are numbered from 0, oldest first (R71, R139). -/
def numberFrames (frames : List Frame) : List Frame :=
  frames.mapIdx fun i f => { f with scan := some (word i) }

/-- The divider starts at the trigger, unless history pacing keeps its origin (R98, R110). -/
def Pacing.startDivider (p : Pacing) (d : Definition) (now : Time) : Pacing :=
  match d.source with
  | .internal _ => if d.depth = 0 ∨ d.start = .immediate then { p with origin := now, ticks := 0 } else p
  | .line _ _ | .soft => p

/-- The context's own part of its start trigger: pacing in phase RUN, history numbered, RUNNING. -/
def Ctx.triggered (x : Ctx) (now : Time) : Ctx :=
  let d := x.definition
  let h := word x.cap.store.length
  { x with
    state := .running
    pacing := { x.pacing.startDivider d now with
      deadline := none
      watcher := if d.stop = .none then .none else .stop
      phase := .run }
    run := { x.run with numbered := h, nextScan := h }
    cap := { x.cap with store := numberFrames x.cap.store } }

/-- The Line Unit zeroes both counters (R172). -/
def State.clearCounters (s : State) : State :=
  { s with lines := { s.lines with counters := mapEach (fun k => { k with count := 0 }) s.lines.counters } }

/-- The start trigger of a context is taken (R71, R110). -/
def State.takeTrigger (s : State) (c : CtxId) : State :=
  let d := (s.ctx c).definition
  let s1 := s.modCtx c (·.triggered s.timeBase)
  let s2 := if d.clearCounters then s1.clearCounters else s1
  let o := s2.runEvent .runStart c
  o.1.handIn o.2

/-! ### Ticks (R102 to R106) -/

/-- What became of a tick; the dispositions of PULSE (R100). -/
inductive TickOutcome where
  | notTaken
  /-- Taken; the position it asked for in STEP mode. -/
  | taken (pos : Nat)
  | slip
deriving DecidableEq, Repr

/-- A frame record for a scan that begins now (R138, R139). -/
def State.newFrame (s : State) (positions : Nat) (scan : Option Word) (history : Bool) : Frame where
  scan := scan
  firstTick := s.timeBase
  lines := s.lineSnapshot
  history := history
  gap := false
  cond := .filling
  samples := List.replicate positions 0

/-- A tick is latched (R102, R103). -/
def Ctx.latch (x : Ctx) : Ctx := { x with pacing := { x.pacing with tick := .latched } }

/-- A history scan begins: the oldest record is given up if the depth is held (R70, R139). -/
def Ctx.beginHistory (x : Ctx) (f : Frame) : Ctx :=
  let kept := if x.definition.depth ≤ x.cap.store.length then x.cap.store.tail else x.cap.store
  Ctx.latch { x with cap := { x.cap with store := kept ++ [f] } }

/-- A scan of the run takes the next number (R73), and the scan count may be reached (R75, R113). -/
def Ctx.numberScan (x : Ctx) : Ctx :=
  let begun := x.run.begun + 1
  { x with
    run := { x.run with
      numbered := x.run.numbered + 1
      nextScan := x.run.nextScan + 1
      begun := begun }
    pacing := { x.pacing with
      countReached := x.pacing.countReached || (x.definition.count != 0 && begun == x.definition.count) } }

/-- The COUNT_DONE of a run whose count is reached, at the end of its last scan (R75, R113). -/
def Ctx.doneIfCounted (x : Ctx) : Ctx :=
  if x.state = .running ∧ x.pacing.countReached then x.countDone else x

/-- A scan of a RUNNING context begins at a tick: reserved, dropped, or the run ends OVERRUN (R73, R138). -/
def Ctx.beginScan (x : Ctx) (f : Frame) : Ctx :=
  if x.cap.store.length < x.frameCapacity then
    let y := x.numberScan
    Ctx.latch { y with cap := { y.cap with store := y.cap.store ++ [{ f with scan := some x.run.nextScan }] } }
  else
    match x.definition.bufferPolicy with
    | .discard =>
      let y := x.numberScan
      Ctx.doneIfCounted { y with run := { y.run with dropped := y.run.dropped + 1 } }
    | .halt => x.faultEnd .overrun

/-- A scan begins: its record holds the lines as they are before any SCAN_START pulse, which follows (R163, R169). -/
def State.scanBegins (s : State) (c : CtxId) : State :=
  let x := s.ctx c
  let n := scanPositions x.steps
  let s1 :=
    match x.pacing.phase with
    | .history => s.setCtx c (x.beginHistory (s.newFrame n none true))
    | .run | .off => s.setCtx c (x.beginScan (s.newFrame n none false))
  (s1.pulse c .scanStart).arbitrate

/-- A slip in phase RUN is counted, and ends the run under slip policy HALT (R105). -/
def Ctx.slipped (x : Ctx) : Ctx :=
  match x.pacing.phase with
  | .run =>
    let y : Ctx := { x with run := { x.run with slips := x.run.slips + 1 } }
    match x.definition.slipPolicy with
    | .count => y
    | .halt => y.faultEnd .pacingOverrun
  | .history | .off => x

/-- The tick would begin a scan (R102, R103). -/
def Ctx.tickBeginsScan (x : Ctx) : Bool := x.definition.mode == .scan || x.pacing.nextPos == 0

/-- A tick reaches the latch of a context (R102 to R106). Nothing is handed in here. -/
def State.deliverTick (s : State) (c : CtxId) : State × TickOutcome :=
  let x := s.ctx c
  if x.pacing.phase = .off then (s, .notTaken)
  else if x.pacing.tick = .free then
    if x.tickBeginsScan then
      if x.pacing.countReached then (s, .notTaken) else (s.scanBegins c, .taken 0)
    else ((s.modCtx c Ctx.latch).arbitrate, .taken x.pacing.nextPos)
  else (s.modCtx c Ctx.slipped, .slip)

/-- A tick of the internal divider or of a line, and what it brings to an end. -/
def State.tickContext (s : State) (c : CtxId) : State := (s.deliverTick c).1.settleCtx c

/-- The index of the next divider instant that is neither delivered nor past (R98, log 4). -/
def Pacing.nextTick (p : Pacing) (period : Nat) (now : Time) : Nat :=
  max p.ticks ((now.toNat - p.origin.toNat + (period - 1)) / period)

/-! ### The end of a slot and of a grant (R104, R123) -/

/-- The context's pacing and frame when its grant ends (R104, R114). -/
def Ctx.grantEnded (x : Ctx) : Ctx :=
  let y := x.freeTick
  match x.definition.mode with
  | .scan => y.completeFrame.doneIfCounted
  | .step =>
    if x.pacing.phase = .off then y
    else if x.pacing.nextPos + 1 < scanPositions x.steps then
      { y with pacing := { y.pacing with nextPos := x.pacing.nextPos + 1 } }
    else Ctx.doneIfCounted { y.completeFrame with pacing := { y.pacing with nextPos := 0 } }

/-- A slot has ended: the grant goes on with the next position at that instant, or ends (R104, R116, R120). -/
def State.endSlot (s : State) (g : Grant) : State :=
  if g.slot.pos < g.last then
    let next : Grant := { g with slot := s.slotAt g.ctx (g.slot.pos + 1) g.slot.stop }
    { s with conv := { s.conv with holder := .context next } }
  else ((s.freeConverter.modCtx g.ctx Ctx.grantEnded).arbitrate).settleCtx g.ctx

/-- A sample is placed in the frame of a context's scan in progress (R140). -/
def Ctx.placeSample (x : Ctx) (pos : Nat) (code : Half) : Ctx :=
  { x with cap := { x.cap with store := x.cap.store.map (·.place pos code) } }

/-- A limit event meets a start trigger (R109). -/
def StartTrigger.metBy (t : StartTrigger) (e : LimitEvent) : Bool :=
  match t with
  | .limit ch d =>
    ch == e.channel &&
      match d with
      | .above => e.region == .above
      | .below => e.region == .below
      | .either => e.region == .above || e.region == .below
  | .immediate | .line _ _ => false

/-- A context's watcher takes a limit event (R107, R109). -/
def State.limitTrigger (s : State) (e : LimitEvent) (c : CtxId) : State :=
  let x := s.ctx c
  if x.pacing.watcher = .start ∧ x.definition.start.metBy e then s.takeTrigger c else s

/-- A limit event is taken: by the report logic as it is raised, so that no watcher's completion has a share in the
judgement (R39, R40; log 28), and by the contexts' watchers, in an order R39 leaves open (log 11). -/
def State.takeLimit (s : State) (e : LimitEvent) (order : List CtxId) : State :=
  (completeOrder allContexts order).foldl (State.limitTrigger · e ·) (s.reportLimit e)

/-- The sample of a slot is handed on: to its frame, to the limit check, and a limit event to those that take it
(R39, R123, R124). -/
def State.handSample (s : State) (g : Grant) (raw : Half) (order : List CtxId) : State :=
  match g.slot.input with
  | .digital value => s.modCtx g.ctx (·.placeSample g.slot.pos value)
  | .analog ch _ gain range =>
    let code := (s.conv.table[(corrIndex range gain).val]).correct raw
    let l := (s.modCtx g.ctx (·.placeSample g.slot.pos code)).limitCheck ch code g.ctx g.slot.start
    match l.2 with
    | none => l.1
    | some e => l.1.takeLimit e order

/-! ### Line edges (R99, R107, R108, R112) -/

/-- A context takes a line edge: as its stop trigger, or as its start trigger, as a tick, or as both. -/
def State.edgeForContext (s : State) (l : LineId) (e : Edge) (c : CtxId) : State :=
  let x := s.ctx c
  let d := x.definition
  if x.pacing.watcher = .stop ∧ d.stop = .line l e then (s.modCtx c (·.stopRun .stopTrigger)).settleCtx c
  else
    let s1 := if x.pacing.watcher = .start ∧ d.start = .line l e then s.takeTrigger c else s
    if d.source = .line l e then s1.tickContext c else s1

/-- A counter takes a line edge (R170). -/
def Counter.countEdge (k : Counter) (l : LineId) (e : Edge) : Counter :=
  if k.source = some (l, e) then { k with count := k.count + 1 } else k

/-- A line edge is taken by one counter, or by one context, which only an ONLINE device has any take (R96, R162). -/
def State.takeEdge (l : LineId) (e : Edge) (s : State) : EdgeTaker → State
  | .counter k => s.setCounter k ((s.counter k).countEdge l e)
  | .context c => if s.link.device = .online then s.edgeForContext l e c else s

/-! ### Readings at the instant of a change (R163, R172; log 29) -/

/-- What a reading taken at a moment shows of a value before, between and after the changes of its instant. -/
def shownAt {α : Type} (m : Moment) (before between after : α) : α :=
  match m with
  | .before => before
  | .between => between
  | .after => after

/-- A line snapshot with each line read at its own moment. -/
def snapshotBy (order : List Moment) (before between after : Half) : Half :=
  BitVec.ofFnLE fun l : Fin 16 =>
    shownAt (order.getD l.val .between) (before.getLsbD l.val) (between.getLsbD l.val) (after.getLsbD l.val)

/-- The low half of a counter, as a pseudo-input reads it (R31, R172). -/
def State.countRead (s : State) (k : Fin 2) : Half := (s.counter k).count.setWidth 16

/-- In an event from `s` to `t` the run of context `c` starts and zeroes the counters, and the tick that the same event
then brings is the one its slot serves: the start trigger is taken first, and then the tick (R108, R110, R172). -/
def zeroedBeforeTick (s t : State) (c : CtxId) : Bool :=
  (s.ctx c).state == .armed && (t.ctx c).state == .running && (s.ctx c).pacing.tick == .free &&
    (t.ctx c).definition.clearCounters

/-- The first count that a slot of context `c` which begins in an event from `s` to `t` can read (R172). -/
def firstCount (s t : State) (c : CtxId) (k : Fin 2) : Half := if zeroedBeforeTick s t c then 0 else s.countRead k

/-- What the pseudo-input `input` shows to context `c` in an event from `s` to `t` whose own order has it read `value`
(R31, R163, R172). -/
def pseudoShown (r : ReadOrder) (s t : State) (c : CtxId) (input : Nat) (value : Half) : Half :=
  if input = 32 then snapshotBy r.lines s.lineSnapshot value t.lineSnapshot
  else if input = 33 then shownAt r.count (firstCount s t c 0) value (t.countRead 0)
  else shownAt r.count (firstCount s t c 1) value (t.countRead 1)

/-- A slot of a pseudo-input that begins in an event from `s` to `t` takes its value at the moment given. -/
def State.readSlot (t s : State) (r : ReadOrder) : State :=
  match t.conv.holder with
  | .context g =>
    match g.slot.input with
    | .digital v =>
      if t.conv.holder = s.conv.holder then t
      else
        let shown := pseudoShown r s t g.ctx ((t.ctx g.ctx).stepOf g.slot.pos).input v
        { t with conv := { t.conv with
          holder := .context { g with slot := { g.slot with input := .digital shown } } } }
    | .analog _ _ _ _ => t
  | .none | .calibration => t

/-- The line snapshot of a scan of context `c` that begins in an event from `s` to `t`: each line at its moment, but the
SCAN_START lines of the context always before the pulse of that scan (R163). -/
def scanLinesShown (r : ReadOrder) (s t : State) (c : CtxId) (value : Half) : Half :=
  let shown := snapshotBy (r.scans.getD c.val []) s.lineSnapshot value t.lineSnapshot
  BitVec.ofFnLE fun l : Fin 16 =>
    if (t.line l).follows c .scanStart then value.getLsbD l.val else shown.getLsbD l.val

/-- The scan that begins in an event takes its line snapshot at the moment given. -/
def Frame.relined (f : Frame) (shown : Half → Half) : Frame :=
  if f.isFilling then { f with lines := shown f.lines } else f

/-- The context's part: only a scan that was not in progress or latched before begins in the event. -/
def Ctx.readScan (y x : Ctx) (shown : Half → Half) : Ctx :=
  if x.hasFilling then y else { y with cap := { y.cap with store := y.cap.store.map (·.relined shown) } }

/-- The readings of an event from `s` to `t` are taken at the moments given. -/
def State.readBy (t s : State) (r : ReadOrder) : State :=
  let u := t.readSlot s r
  { u with ctxs := Vector.ofFn fun c : Fin 8 => (t.ctx c).readScan (s.ctx c) (scanLinesShown r s t c) }

end Sys2Proof.Machine
end

