-- ==== Sys2Proof/Machine/LinkOps.lean ====
section
/-!
DEFINITION. Operations of the Host Link: resets (R181, R183, R186, R195), entry into FAILED (R184, R194), interrupt
messages (R191 to R193), and the writes of the register window (R180, R182).
-/

namespace Sys2Proof.Machine

open Sys2Proof

abbrev Result := Host.Outcome State Fault Refusal

/-! ### Interrupt messages (R191 to R194) -/

/-- A message is put in class 1, if the endpoint's configuration enables messages (R192, R194). DESIGN CHOICE (log 32):
that is tested here, as the message joins class 1, and not again when it is sent. -/
def HostLink.queueMessage (h : HostLink) (cause : IntCause) : HostLink :=
  if h.endpoint.messages then { h with bus := { h.bus with class1 := h.bus.class1 ++ [.message cause] } } else h

/-- An interrupt message is sent: INT_CAUSE takes its cause and the coalescing state is emptied (R192). -/
def HostLink.interrupt (h : HostLink) (cause : IntCause) : HostLink :=
  HostLink.queueMessage
    { h with regs := { h.regs with intCause := cause }, unsignalled := 0, deadline := none } cause

/-- The coalescing deadline has been reached at an instant. -/
def HostLink.deadlineReached (h : HostLink) (now : Time) : Bool :=
  match h.deadline with
  | some d => timeReached now d
  | none => false

/-- The unsignalled count has reached the coalescing count. -/
def HostLink.countReached (h : HostLink) : Bool := h.regs.intCount.toNat ≤ h.unsignalled

/-- COUNT and TIME messages are sent only in this condition (R192). -/
def HostLink.signals (h : HostLink) : Bool := h.regs.intEnable && h.device == .online

/-- The tests of R193: the count, and otherwise the deadline. -/
def HostLink.retest (h : HostLink) (now : Time) : HostLink :=
  if h.signals then
    if h.countReached then h.interrupt .count
    else if h.deadlineReached now then h.interrupt .time
    else h
  else h

/-- The coalescing state counts a record sent (R191). -/
def HostLink.recordSent (h : HostLink) (now : Time) : HostLink :=
  { h with
    unsignalled := min 64 (h.unsignalled + 1)
    deadline := match h.deadline with
      | some d => some d
      | none => some (timeAfter now (10 * h.regs.intTime.toNat)) }

/-- The COUNT test at a record's send. Where the deadline is reached at the same instant, `deadlineFirst` says which
is taken first (R192, log 11). -/
def HostLink.testAfterSend (h : HostLink) (now : Time) (deadlineFirst : Bool) : HostLink :=
  if h.signals ∧ h.countReached then
    h.interrupt (if deadlineFirst ∧ h.deadlineReached now then .time else .count)
  else h

/-! ### Resets -/

/-- The registers after a soft reset (R181). -/
def Registers.softReset (r : Registers) : Registers :=
  { Registers.reset with
    intEnable := r.intEnable
    adminBase := r.adminBase
    adminSize := r.adminSize
    cplSize := r.cplSize
    cplBase := r.cplBase
    dmaLimit := r.dmaLimit
    intCount := r.intCount
    intTime := r.intTime }

/-- The Conversion Unit after a link reset or soft reset: the table, its source and the copies stay (R117, R127, R135). -/
def Conversion.softReset (v : Conversion) : Conversion :=
  { Conversion.reset with table := v.table, source := v.source, nv := v.nv }

/-- The lines after a reset: all INPUT, at the levels the board sees (R161). -/
def LineUnit.afterReset (u : LineUnit) : LineUnit :=
  { LineUnit.reset with
    lines := Vector.ofFn fun l : Fin 16 => ⟨.input, u.pins.getLsbD l.val, none⟩
    pins := u.pins }

/-- Every block after a reset that keeps the live table; the Host Link is given (R183, R186). -/
def State.resetBlocks (s : State) (link : HostLink) : State :=
  { State.reset with
    pending := s.pending
    link := link
    conv := s.conv.softReset
    lines := s.lines.afterReset
    hostRead := s.hostRead }

/-- A soft reset: the registers R181 keeps, the endpoint's configuration and the link's condition stay (R183). -/
def State.softReset (s : State) : State :=
  s.resetBlocks { HostLink.reset with
    operating := s.link.operating
    regs := s.link.regs.softReset
    endpoint := s.link.endpoint }

/-- A link reset: registers and endpoint at their reset values, the link operating again (R186, log 12). -/
def State.linkReset (s : State) : State := s.resetBlocks HostLink.reset

/-- A power-on: as a link reset, and the live table is loaded from the copies (R129, R195). -/
def State.powerOn (s : State) : State :=
  let t := s.linkReset
  { t with conv := t.conv.loadTable }

/-! ### FAILED (R184, R194) -/

/-- Entry into FAILED by link loss: what is on the link is cut off, and the message is owed (R184, R194). -/
def HostLink.failByLoss (h : HostLink) : HostLink :=
  { h with
    device := .failed
    operating := false
    failedOwed := true
    bus := { h.bus with class1 := [], busy := false } }

/-- A completion record is being sent. -/
def Bus.sendingRecord (b : Bus) : Bool :=
  b.busy && match b.onLink with
    | some (.record _ _) => true
    | some (.message _ _) | some (.read _) | some (.frame _ _) | some (.report _) | none => false

/-- INT_CAUSE becomes FAILED and the message of R194 is put out, if INT_ENABLE is 1. -/
def HostLink.failedMessage (h : HostLink) : HostLink :=
  if h.regs.intEnable then
    HostLink.queueMessage { h with regs := { h.regs with intCause := .failed } } .failed
  else h

/-- Entry into FAILED by a staging error: a completion record being sent goes out, anything else is cut off, and the
FAILED message follows (R184, R194, log 19). -/
def HostLink.failByStaging (h : HostLink) : HostLink :=
  HostLink.failedMessage
    { h with
      device := .failed
      bus := { h.bus with class1 := [], busy := h.bus.sendingRecord } }

/-! ### Rings that halt (R4, R22) -/

/-- An ACTIVE ring halts: its turn ends and its notice is handed in. -/
def State.haltRing (s : State) (r : RingId) (n : NoticeStatus) (w0 w1 : Word) : State :=
  let ring := s.ring r
  let s1 := s.setRing r { ring with state := .halted }
  let s2 := { s1 with intake := { s1.intake with turnOver := s1.intake.turnOver || s1.intake.current == some r } }
  s2.handIn [.notice n r ring.head w0 w1]

/-! ### Register writes (R180) -/

/-- The host's write of a SUBMIT_TAILn (R3). -/
def State.writeTail (s : State) (r : RingId) (v : Word) : State :=
  let ring := s.ring r
  if s.link.device = .online ∧ ring.state = .active then
    if v.toNat < ring.size then s.setRing r { ring with tail := v.toNat }
    else s.haltRing r .indexError v (word ring.size)
  else s

/-- The host's write of CPL_HEAD (R19). -/
def State.writeHead (s : State) (v : Word) : State :=
  if s.link.device = .online then
    if v.toNat < s.cpl.size then
      let t := s.modRegs fun r => { r with cplHead := v }
      { t with cpl := { t.cpl with head := v.toNat } }
    else s
  else s.modRegs fun r => { r with cplHead := v }

/-- The host's write of INT_COALESCE (R180, R193). -/
def State.writeCoalesce (s : State) (v : Word) : State :=
  let count : BitVec 7 := v.setWidth 7
  if count.toNat < 1 ∨ 64 < count.toNat then s
  else
    let t := s.modRegs fun r => { r with intCount := count, intTime := v.extractLsb' 16 16 }
    { t with link := t.link.retest t.timeBase }

/-- A power of two within two bounds. -/
def isPowerOfTwoIn (lo hi n : Nat) : Bool :=
  lo ≤ n && n ≤ hi && (List.range 13).any fun k => 2 ^ k == n

/-- The number of the first enable check that fails, if one fails (R182). -/
def Registers.enableFault (r : Registers) : Option Nat :=
  if !isPowerOfTwoIn 4 256 r.adminSize.toNat then some 1
  else if r.adminBase.toNat % 64 ≠ 0 then some 2
  else if ¬ r.adminBase.toNat + 64 * r.adminSize.toNat - 1 < r.dmaLimit.toNat then some 3
  else if !isPowerOfTwoIn 16 4096 r.cplSize.toNat then some 4
  else if r.cplBase.toNat % 64 ≠ 0 then some 5
  else if ¬ r.cplBase.toNat + 32 * r.cplSize.toNat - 1 < r.dmaLimit.toNat then some 6
  else none

/-- A transfer of class 1 that is a completion record. -/
def Class1.isRecord : Class1 → Bool
  | .record _ _ => true
  | .message _ => false

/-- The messages that wait in class 1 are not sent any more (R193, log 32). -/
def Bus.dropMessages (b : Bus) : Bus := { b with class1 := b.class1.filter Class1.isRecord }

/-- The INT_ENABLE bit is written. Clearing it stops the sending of messages, those that wait among them (R193, log 32). -/
def HostLink.setIntEnable (h : HostLink) (v : Bool) : HostLink :=
  { h with
    regs := { h.regs with intEnable := v }
    bus := if v then h.bus else h.bus.dropMessages }

/-- A write of the INT_ENABLE bit: a change from 0 to 1 makes the tests of R193. -/
def State.writeIntEnable (s : State) (v : Bool) : State :=
  let h := s.link.setIntEnable v
  { s with link := if v ∧ !s.link.regs.intEnable then h.retest s.timeBase else h }

/-- The enable checks have passed: ONLINE, with the rings in force (R1, R17, R182, R191). -/
def State.goOnline (s : State) : State :=
  let r := s.link.regs
  let t := s.setRing 0 ⟨.active, r.adminBase, r.adminSize.toNat, 0, 0, 0⟩
  { t with
    link := { t.link with
      device := .online
      regs := { r with configError := false, check := 0, cplHead := 0 }
      unsignalled := 0
      deadline := none }
    cpl := { t.cpl with base := r.cplBase, size := r.cplSize.toNat, head := 0, tail := 0, phase := true } }

/-- A write with ENABLE 1 in OFFLINE (R182). -/
def State.tryEnable (s : State) : State :=
  match s.link.regs.enableFault with
  | some n => s.modRegs fun r => { r with configError := true, check := n }
  | none => s.goOnline

/-- The host's write of CONTROL (R182, R183). A soft reset keeps INT_ENABLE as it was (R181, log 20). -/
def State.writeControl (s : State) (enable intEnable : Bool) : State :=
  match s.link.device, enable with
  | .offline, true => s.tryEnable.writeIntEnable intEnable
  | .offline, false => s.writeIntEnable intEnable
  | .online, true | .failed, true => s.writeIntEnable intEnable
  | .online, false | .failed, false => s.softReset

/-- The low half of a 64-bit register is replaced (R180). -/
def withLow (a : Addr) (v : Word) : Addr := a.extractLsb' 32 32 ++ v

/-- The high half of a 64-bit register is replaced (R180). -/
def withHigh (a : Addr) (v : Word) : Addr := v ++ a.extractLsb' 0 32

/-- The host's 64-bit write (R180): only the three address registers take one. -/
def State.writeWide (s : State) (offset : Nat) (v : BitVec 64) : State :=
  match offset with
  | 0x10 => s.modRegs fun r => { r with adminBase := v }
  | 0x20 => s.modRegs fun r => { r with cplBase := v }
  | 0x30 => s.modRegs fun r => { r with dmaLimit := v }
  | _ => s

/-- The host's 32-bit write (R180). A read-only or unused offset, or one that is no multiple of 4, changes nothing. DESIGN
CHOICE: the low half of a 64-bit register lies at its lower offset, the high half 4 above it (log 34). -/
def State.writeWord (s : State) (offset : Nat) (v : Word) : State :=
  match offset with
  | 0x04 => s.writeControl (v.getLsbD 0) (v.getLsbD 1)
  | 0x10 => s.modRegs fun r => { r with adminBase := withLow r.adminBase v }
  | 0x14 => s.modRegs fun r => { r with adminBase := withHigh r.adminBase v }
  | 0x18 => s.modRegs fun r => { r with adminSize := v }
  | 0x1C => s.modRegs fun r => { r with cplSize := v }
  | 0x20 => s.modRegs fun r => { r with cplBase := withLow r.cplBase v }
  | 0x24 => s.modRegs fun r => { r with cplBase := withHigh r.cplBase v }
  | 0x28 => s.writeHead v
  | 0x2C => s.writeCoalesce v
  | 0x30 => s.modRegs fun r => { r with dmaLimit := withLow r.dmaLimit v }
  | 0x34 => s.modRegs fun r => { r with dmaLimit := withHigh r.dmaLimit v }
  | 0x38 => s.writeTail 0 v
  | 0x3C => s.writeTail 1 v
  | 0x40 => s.writeTail 2 v
  | 0x44 => s.writeTail 3 v
  | 0x48 => s.writeTail 4 v
  | _ => s

/-- The host's write of so many bits (R180). One of a width other than 32 and 64 is answered as an unsupported request,
and changes no register. -/
def State.writeWindow (s : State) (offset width : Nat) (v : BitVec 64) : State :=
  if width = 64 then s.writeWide offset v
  else if width = 32 then s.writeWord offset (v.setWidth 32)
  else s

/-- An access of the host reaches the register window only while the link operates (R186, log 12). -/
def State.hostAccess (s : State) (f : State → State) : State := if s.link.operating then f s else s

end Sys2Proof.Machine
end

