-- ==== Sys2Proof/Machine/CalibrationCommands.lean ====
section
/-!
DEFINITION. Family: calibration. CALIBRATE, CAL_ENTRY_MEASURED, CAL_STORE_DONE.
-/

namespace Sys2Proof.Machine

open Sys2Proof

/-- Change the Conversion Unit. -/
def State.modConv (s : State) (f : Conversion → Conversion) : State := { s with conv := f s.conv }

/-- A calibration begins with entry 0 and asks for the converter (R131). -/
def Conversion.beginCalibration (v : Conversion) (entry : Nat) (store : Bool) : Conversion :=
  { v with calRequest := true, cal := ⟨.measuring 0, some entry, store, []⟩ }

/-- CALIBRATE (R130, R131). -/
def execCalibrate (store : Bool) (s : State) : Result :=
  .next (s.ownerTakes 0 (.calibrate store) fun e t =>
    if t.conv.cal.entry.isSome then t.complete e .calibrating 0 0 0
    else if t.anyActive then t.complete e .converterBusy 0 0 0
    else (t.modConv (·.beginCalibration e store)).arbitrate)

/-- The sixteen new entries as a table. -/
def tableOf (entries : List CorrEntry) : Vector CorrEntry 16 :=
  Vector.ofFn fun i : Fin 16 => entries.getD i.val CorrEntry.nominal

/-- The calibration is over but for its completion (R132, R133). -/
def Conversion.endMeasuring (v : Conversion) : Conversion :=
  { v with cal := { v.cal with phase := .idle, readings := [] } }

/-- The new entries replace the live table (R127, R133). -/
def Conversion.replaceTable (v : Conversion) (entries : List CorrEntry) : Conversion :=
  { v with table := tableOf entries, source := .calibrated }

/-- The next entry is measured (R131). -/
def Conversion.nextEntry (v : Conversion) (k : Fin 16) (readings : List CorrEntry) : Conversion :=
  { v with cal := { v.cal with phase := .measuring (k + 1), readings := readings } }

/-- Storing begins: the older copy is no longer valid until it is written whole (R128, R133, R135). -/
def Conversion.beginStore (v : Conversion) (readings : List CorrEntry) : Conversion :=
  let k := v.olderCopy
  { v with
    nv := v.nv.set k.val { v.nv[k.val] with intact := false }
    cal := { v.cal with phase := .storing k, readings := readings } }

/-- A copy has been written whole, with a generation (R133). -/
def Conversion.storeCopy (v : Conversion) (k : Fin 2) (generation : Word) : Conversion :=
  { v with nv := v.nv.set k.val ⟨tableOf v.cal.readings, .calibrated, generation, true⟩ }

/-- The completion of the CALIBRATE in flight is handed in. -/
def State.completeCalibration (s : State) (st : Status) (w0 w1 w2 : Word) : State :=
  match s.conv.cal.entry with
  | some e => s.complete e st w0 w1 w2
  | none => s

/-- Entry `k` has been read (R132, R133). -/
def State.entryMeasured (s : State) (k : Fin 16) (low high : Half) : State :=
  match calibrationFault k low high with
  | some reason =>
    (s.freeConverter.modConv Conversion.endMeasuring).arbitrate.completeCalibration .calFailed
      (word k.val) (word reason) 0
  | none =>
    let readings := s.conv.cal.readings ++ [derivedEntry k low high]
    if k.val < 15 then s.modConv (·.nextEntry k readings)
    else if s.conv.cal.store then (s.freeConverter.modConv (·.beginStore readings)).arbitrate
    else
      (s.freeConverter.modConv fun v => (v.replaceTable readings).endMeasuring).arbitrate.completeCalibration
        .ok 0 0 0

/-- CAL_ENTRY_MEASURED (R131, R132, R133). -/
def execCalEntryMeasured (low high : Half) (s : State) : Result :=
  .next (match s.link.device, s.conv.holder, s.conv.cal.phase with
    | .online, .calibration, .measuring k => s.entryMeasured k low high
    | _, _, _ => s)

/-- The write of copy `k` has ended (R133). -/
def State.storeDone (s : State) (k : Fin 2) : State :=
  let g := s.conv.nextGeneration
  (s.modConv fun v => ((v.storeCopy k g).replaceTable v.cal.readings).endMeasuring).completeCalibration
    .ok 1 (word k.val) g

/-- CAL_STORE_DONE (R133). -/
def execCalStoreDone (s : State) : Result :=
  .next (match s.link.device, s.conv.cal.phase with
    | .online, .storing k => s.storeDone k
    | _, _ => s)

end Sys2Proof.Machine
end

