-- ==== Sys2Proof/Machine/CaptureCommands.lean ====
section
/-!
DEFINITION. Family: the Capture Engine. POST_BUFFER, FRAME_WRITE_BEGIN, FRAME_WRITE_END, FLUSH_TIMER.
-/

namespace Sys2Proof.Machine

open Sys2Proof

/-! ### POST_BUFFER (R143, R144) -/

/-- The answer to a POST_BUFFER that R143 refuses: the first check that fails, if one fails. -/
def State.postFault (s : State) (c : CtxId) (length : Word) : Option Answer :=
  let x := s.ctx c
  if length.toNat < 256 ∨ 1048576 < length.toNat ∨ length.toNat % 64 ≠ 0 then some (answer .badParam 0 0 0)
  else if x.state ≠ .ready ∧ !x.state.active then some (answer .badState 0 0 0)
  else if Config.queueBuffers ≤ x.cap.queue.length then some (answer .queueFull (word Config.queueBuffers) 0 0)
  else if length.toNat < x.frameSize then some (answer .bufferTooSmall (word x.frameSize) 0 0)
  else none

/-- A buffer as it is posted (R144). -/
def Buffer.posted (address : Addr) (length tag : Word) (ring : RingId) : Buffer where
  address := address
  length := length.toNat
  tag := tag
  ring := ring
  used := 0
  frames := 0
  firstScan := 0
  gap := false
  opened := false
  due := none

/-- A buffer joins the back of the queue (R142). -/
def Ctx.joinQueue (x : Ctx) (b : Buffer) : Ctx := { x with cap := { x.cap with queue := x.cap.queue ++ [b] } }

/-- POST_BUFFER (R143, R144). -/
def execPostBuffer (src : RingId) (ctx : CtxId) (length tag : Word) (address : Addr) (s : State) : Result :=
  .next (s.ownerTakes src (.postBuffer ctx length tag address) fun e t =>
    match t.postFault ctx length with
    | some a => t.handIn [.command e a]
    | none =>
      let u := t.modCtx ctx (·.joinQueue (Buffer.posted address length tag src))
      u.complete e .ok (word (u.ctx ctx).cap.queue.length) (word (length.toNat / (u.ctx ctx).frameSize)) 0)

/-! ### FRAME_WRITE_BEGIN (R145, R146, R148) -/

/-- The oldest frame may be written: the conditions of R145 but for the buffer. -/
def Ctx.frameReady (x : Ctx) : Option Frame :=
  if (x.state = .running ∨ x.state = .stopping) ∧ !x.cap.writing then
    match x.cap.store with
    | f :: _ => if f.cond = .complete then some f else none
    | [] => none
  else none

/-- The GAP flag of a frame whose write begins (R146). -/
def Ctx.gapOf (x : Ctx) (f : Frame) : Bool :=
  match x.cap.lastWritten with
  | some n => f.scan.getD 0 != n + 1
  | none => f.scan.getD 0 != 0

/-- The buffer a frame is written into: opened by its first frame (R145, R146). -/
def Buffer.taking (b : Buffer) (f : Frame) (gap : Bool) : Buffer :=
  { b with
    opened := true
    firstScan := if b.opened then b.firstScan else f.scan.getD 0
    gap := b.gap || gap }

/-- The frame's write begins in the context record (R145, R146, R152). -/
def Ctx.beginWrite (x : Ctx) (f : Frame) (rest : List Frame) (b : Buffer) (behind : List Buffer) : Ctx :=
  let gap := x.gapOf f
  { x with cap := { x.cap with
      store := { f with gap := gap, cond := .writing } :: rest
      queue := b.taking f gap :: behind
      writing := true
      lastWritten := some (f.scan.getD 0)
      flushDeadline := none } }

/-- The write of a frame into a buffer (R145, R201). -/
def Ctx.frameWrite (x : Ctx) (f : Frame) (b : Buffer) : FrameWrite where
  address := b.address + BitVec.ofNat 64 b.used
  bytes := { f with gap := x.gapOf f }.bytes x.definition.format x.frameSize

/-- The open buffer becomes due to retire with a status (R146, R152). -/
def Ctx.headDue (x : Ctx) (status : BufferStatus) : Ctx :=
  match x.cap.queue with
  | b :: behind =>
    { x with cap := { x.cap with queue := { b with due := some status } :: behind, flushDeadline := none } }
  | [] => x

/-- The frame is read out of staging and its write asked for, or the device enters FAILED (R145, R148). DESIGN CHOICE
(log 30): the frame with the error then stays COMPLETE, with no write in flight and its buffer as it was. -/
def State.sendFrame (s : State) (c : CtxId) (b : Buffer) (staging : Bool) : State :=
  let x := s.ctx c
  if staging then { s with link := s.link.failByStaging }
  else
    match x.cap.store with
    | f :: rest =>
      (s.setCtx c (x.beginWrite f rest b x.cap.queue.tail)).modBus fun u =>
        { u with class3 := u.class3.set c.val (some (x.frameWrite f b)) }
    | [] => s

/-- A frame waits to be written: into the open buffer, or as the first of the head; or the open buffer is too short
and retires FILLED; or no buffer is to be had (R145, R146, R155). -/
def State.writeOldest (s : State) (c : CtxId) (staging : Bool) : State :=
  let x := s.ctx c
  match x.cap.queue with
  | [] => s.settleCtx c
  | b :: _ =>
    if b.opened then
      if b.due.isSome then s
      else if b.length - b.used < x.frameSize then (s.modCtx c (·.headDue .filled)).settleCtx c
      else s.sendFrame c b staging
    else if x.cap.faultLimit = some 0 then s.settleCtx c
    else s.sendFrame c b staging

/-- FRAME_WRITE_BEGIN (R145, R146, R148, R155). -/
def execFrameWriteBegin (ctx : CtxId) (staging : Bool) (s : State) : Result :=
  .next (if s.link.device = .online ∧ ((s.ctx ctx).frameReady).isSome then s.writeOldest ctx staging else s)

/-! ### FRAME_WRITE_END (R147) -/

/-- A buffer has taken a whole frame. -/
def Buffer.took (b : Buffer) (size : Nat) : Buffer := { b with used := b.used + size, frames := b.frames + 1 }

/-- The buffer that was open when an ABORT moved it to the return list has taken a whole frame (R156). -/
def ReturnItem.took (size : Nat) : ReturnItem → ReturnItem
  | .buffer b => if b.opened then .buffer (b.took size) else .buffer b
  | .command e a => .command e a

/-- The frame written leaves the store, the buffer it went into counts it, and it is delivered (R147). -/
def Ctx.endWrite (x : Ctx) (now : Time) : Ctx :=
  match x.cap.store with
  | [] => x
  | f :: rest =>
    let size := x.frameSize
    let run := { x.run with
      delivered := x.run.delivered + 1
      historyDelivered := x.run.historyDelivered + if f.history then 1 else 0 }
    match x.cap.queue with
    | b :: behind =>
      if b.opened then
        { x with
          run := run
          cap := { x.cap with
            store := rest
            queue := b.took size :: behind
            writing := false
            flushDeadline := if b.due = none then msDeadline now x.definition.flush else x.cap.flushDeadline } }
      else
        { x with run := run, cap := { x.cap with
            store := rest, returns := x.cap.returns.map (ReturnItem.took size), writing := false } }
    | [] =>
      { x with run := run, cap := { x.cap with
          store := rest, returns := x.cap.returns.map (ReturnItem.took size), writing := false } }

/-- FRAME_WRITE_END (R147, R154, R155): the frame write on the link has been sent. -/
def execFrameWriteEnd (s : State) : Result :=
  .next (match s.link.device, s.link.bus.busy, s.link.bus.onLink with
    | .online, true, some (.frame c _) =>
      if (s.ctx c).cap.writing then
        ((s.modBus fun b => { b with busy := false }).modCtx c (·.endWrite s.timeBase)).settleCtx c
      else s.modBus fun b => { b with busy := false }
    | _, _, _ => s)

/-! ### FLUSH_TIMER (R152) -/

/-- FLUSH_TIMER (R152): the time base reaches the flush deadline, and the open buffer is due to retire PARTIAL. -/
def execFlushTimer (ctx : CtxId) (s : State) : Result :=
  .next (match s.link.device, (s.ctx ctx).cap.flushDeadline with
    | .online, some t => ((s.advanceTo t).modCtx ctx (·.headDue .partial')).settleCtx ctx
    | _, _ => s)

end Sys2Proof.Machine
end

