-- ==== Sys2Proof/Machine/ChannelCommands.lean ====
section
/-!
DEFINITION. Family: the Channel Table's commands. SET_CHANNEL, REARM_LIMIT.
-/

namespace Sys2Proof.Machine

open Sys2Proof

/-- The status of the first check of R33 that fails, if one fails. -/
def State.setChannelFault (s : State) (p : ChannelParams) : Option Status :=
  let n := p.channel.toNat
  if 31 < n then some .badParam
  else if 1 < p.mode.toNat then some .badParam
  else if p.mode = 1 ∧ 15 < n then some .badParam
  else if 7 < p.gain.toNat then some .badParam
  else if 1 < p.range.toNat then some .badParam
  else if p.high.toNat < p.low.toNat then some .badParam
  else if s.channelInUse (Fin.ofNat 32 n) then some .channelInUse
  else if p.mode = 1 ∧ s.channelInUse (Fin.ofNat 32 (n + 16)) then some .channelInUse
  else none

/-- The entry that parameters which pass R33 give, with limit state UNKNOWN and the report armed (R35). -/
def channelEntryOf (p : ChannelParams) : Channel where
  mode := if p.mode = 0 then .single else .diff
  gain := p.gain.toNat
  range := if p.range = 0 then .bipolar else .unipolar
  limitEnable := p.limitEnable
  low := p.low
  high := p.high
  report := p.report
  limit := .unknown
  armed := true

/-- A partner's limit state becomes UNKNOWN and its report armed; its settings are kept (R35). -/
def Channel.rearmed (ch : Channel) : Channel := { ch with limit := .unknown, armed := true }

/-- An accepted SET_CHANNEL (R35). -/
def State.setChannel (s : State) (p : ChannelParams) : State :=
  let n : ChanId := Fin.ofNat 32 p.channel.toNat
  let partner : ChanId := Fin.ofNat 32 (p.channel.toNat + 16)
  let t := s.setChan n (channelEntryOf p)
  if n.val < 16 ∧ (s.chan n).mode ≠ (channelEntryOf p).mode then t.setChan partner (s.chan partner).rearmed else t

/-- SET_CHANNEL (R33, R35). -/
def execSetChannel (p : ChannelParams) (s : State) : Result :=
  .next (s.ownerTakes 0 (.setChannel p) fun e t =>
    match t.setChannelFault p with
    | some st => t.complete e st 0 0 0
    | none => (t.setChannel p).complete e .ok 0 0 0)

/-- REARM_LIMIT (R43). -/
def execRearmLimit (channel : Byte) (s : State) : Result :=
  .next (s.ownerTakes 0 (.rearmLimit channel) fun e t =>
    if 31 < channel.toNat then t.complete e .badParam 0 0 0
    else
      let n : ChanId := Fin.ofNat 32 channel.toNat
      let ch := t.chan n
      (t.setChan n { ch with armed := true }).complete e .ok (if ch.armed then 1 else 0) (word ch.limit.code) 0)

end Sys2Proof.Machine
end

