-- ==== Sys2Proof/Machine/CompletionEvents.lean ====
section
/-!
DEFINITION. Family: the Completion Writer and the bus. CLAIMANT_HANDED_IN, COMPLETION_WRITE_BEGIN,
COMPLETION_WRITE_DONE, FIRST_UNSIGNALLED_DEADLINE, BUS_TRANSFER_SEND.
-/

namespace Sys2Proof.Machine

open Sys2Proof

/-! ### CLAIMANT_HANDED_IN (R20) -/

/-- The claimants but the first. -/
def State.dropClaimant (s : State) : State := { s with cpl := { s.cpl with claimants := s.cpl.claimants.tail } }

/-- CLAIMANT_HANDED_IN (R20): a free backlog entry goes to the claimant that has waited longest. -/
def execClaimantHandedIn (s : State) : Result :=
  .next (match s.cpl.claimants with
    | cl :: _ =>
      if s.link.device = .online ∧ s.cpl.backlog.length < Config.backlogEntries then
        let j := s.dropClaimant.joinClaim cl
        j.1.handIn j.2
      else s
    | [] => s)

/-! ### Completion writes (R18) -/

/-- The address of the record the Completion Writer writes next (R18). -/
def CompletionWriter.recordAddress (c : CompletionWriter) : Addr := c.base + BitVec.ofNat 64 (32 * c.tail)

/-- COMPLETION_WRITE_BEGIN (R18): the oldest completion is asked to be written with the present phase. -/
def execCompletionWriteBegin (s : State) : Result :=
  .next (match s.cpl.backlog with
    | c :: _ =>
      if s.link.device = .online ∧ !s.cpl.writing ∧ !s.cpl.full then
        State.modBus { s with cpl := { s.cpl with writing := true } } fun b =>
          { b with class1 := b.class1 ++ [.record s.cpl.recordAddress (c.record s.cpl.phase)] }
      else s
    | [] => s)

/-- The record sent leaves the backlog and the tail advances; the phase inverts on a wrap (R18). -/
def CompletionWriter.recordSent (c : CompletionWriter) : CompletionWriter :=
  let tail := (c.tail + 1) % c.size
  { c with
    backlog := c.backlog.tail
    tail := tail
    phase := if tail = 0 then !c.phase else c.phase
    writing := false }

/-- COMPLETION_WRITE_DONE (R18, R191, R192): the record on the link has been sent. In FAILED it has only left the
link (R27, R194). -/
def execCompletionWriteDone (deadlineFirst : Bool) (s : State) : Result :=
  .next (match s.link.bus.busy, s.link.bus.onLink with
    | true, some (.record _ _) =>
      let t := s.modBus fun b => { b with busy := false }
      if s.link.device = .online then
        { t with
          cpl := t.cpl.recordSent
          link := (t.link.recordSent t.timeBase).testAfterSend t.timeBase deadlineFirst }
      else t
    | _, _ => s)

/-- FIRST_UNSIGNALLED_DEADLINE (R192): the time base reaches the deadline. -/
def execFirstUnsignalledDeadline (s : State) : Result :=
  .next (match s.link.deadline with
    | some d =>
      if s.link.signals then
        let t := s.advanceTo d
        { t with link := t.link.interrupt .time }
      else s
    | none => s)

/-! ### BUS_TRANSFER_SEND (R188) -/

/-- The search order of class 3: from the context after the last served, wrapping from 7 to 0. -/
def contextsAfter (last : CtxId) : List CtxId := allContexts.map fun k => k + last + 1

/-- The context whose frame write class 3 sends next. -/
def Bus.nextFrame (b : Bus) : Option CtxId :=
  (contextsAfter b.lastServed).find? fun c => (b.class3[c.val]).isSome

/-- A transfer of class 1 is sent: a record takes the link until it is done; a message is sent whole (log 19), to the
address the endpoint holds as it is sent (DESIGN CHOICE, log 32). -/
def Bus.sendClass1 (b : Bus) (t : Class1) (rest : List Class1) (messageAddress : Addr) : Bus :=
  match t with
  | .record a bytes => { b with class1 := rest, onLink := some (.record a bytes), busy := true }
  | .message cause => { b with class1 := rest, onLink := some (.message cause messageAddress) }

/-- A read's request is sent; its data is awaited from then on (R190). -/
def Bus.sendRead (b : Bus) (r : ReadRequest) (rest : List ReadRequest) (now : Time) : Bus :=
  { b with class2 := rest, onLink := some (.read r), outstanding := b.outstanding ++ [⟨r, now⟩] }

/-- A context's frame write is sent. -/
def Bus.sendFrame (b : Bus) (c : CtxId) : Bus :=
  match b.class3[c.val] with
  | some w =>
    { b with class3 := b.class3.set c.val none, lastServed := c, onLink := some (.frame c w), busy := true }
  | none => b

/-- A REPORT write is sent. -/
def Bus.sendReport (b : Bus) (w : ReportWrite) (rest : List ReportWrite) : Bus :=
  { b with class4 := rest, onLink := some (.report w), busy := true }

/-- The arbiter sends the next transfer of the lowest-numbered class that holds one (R188). -/
def Bus.sendNext (b : Bus) (messageAddress : Addr) (now : Time) : Bus :=
  match b.class1 with
  | t :: rest => b.sendClass1 t rest messageAddress
  | [] =>
    match b.class2 with
    | r :: rest => b.sendRead r rest now
    | [] =>
      match b.nextFrame with
      | some c => b.sendFrame c
      | none =>
        match b.class4 with
        | w :: rest => b.sendReport w rest
        | [] => b

/-- In FAILED only the message of R194 is sent. -/
def Bus.sendFailed (b : Bus) (messageAddress : Addr) : Bus :=
  match b.class1 with
  | .message .failed :: rest => b.sendClass1 (.message .failed) rest messageAddress
  | _ => b

/-- The link can take a transfer of this endpoint (R186, R188). -/
def HostLink.canSend (h : HostLink) : Bool := h.operating && h.endpoint.busMaster && !h.bus.busy

/-- BUS_TRANSFER_SEND (R188, R189, R194). -/
def execBusTransferSend (s : State) : Result :=
  .next (if s.link.canSend then
      match s.link.device with
      | .online => s.modBus fun b => b.sendNext s.link.endpoint.address s.timeBase
      | .failed => s.modBus fun b => b.sendFailed s.link.endpoint.address
      | .offline => s
    else s)

end Sys2Proof.Machine
end

