-- ==== Sys2Proof/Machine/Fetch.lean ====
section
/-!
DEFINITION. Family: fetches and host reads. FETCH_BEGIN, FETCH_RETURN, SEQUENCE_READ_RETURN, READ_ERROR_COMPLETION,
READ_TIMEOUT; with the intake arbiter (R10, R11), the common checks (R12) and the end of a load (R52 to R57).
-/

namespace Sys2Proof.Machine

open Sys2Proof

/-! ### The intake arbiter (R10, R11) -/

/-- The order in which the arbiter looks at the work rings: from the ring after the current one, wrapping from 4 to 1. -/
def ringsFrom (current : Option RingId) : List RingId :=
  match current with
  | some 1 => [2, 3, 4, 1]
  | some 2 => [3, 4, 1, 2]
  | some 3 => [4, 1, 2, 3]
  | _ => [1, 2, 3, 4]

/-- The current ring's turn goes on (R11). -/
def State.turnGoesOn (s : State) : Option RingId :=
  match s.intake.current with
  | some r =>
    if (s.ring r).waiting ∧ s.intake.taken < (s.ring r).weight ∧ !s.intake.turnOver then some r else none
  | none => none

/-- The arbiter picks the ring of the next fetch and updates the turn (R10, R11). -/
def State.pickRing (s : State) : Option (RingId × State) :=
  if (s.ring 0).waiting then some (0, s)
  else
    match s.turnGoesOn with
    | some r => some (r, { s with intake := { s.intake with taken := s.intake.taken + 1 } })
    | none =>
      match (ringsFrom s.intake.current).find? fun r => (s.ring r).waiting with
      | some r => some (r, { s with intake := { s.intake with current := some r, taken := 1, turnOver := false } })
      | none => none

/-- Fetching is allowed (R7). -/
def State.fetchAllowed (s : State) : Bool :=
  s.link.device == .online && s.intake.table.length < Config.pendingEntries &&
    s.cpl.backlog.length < Config.pauseLevel && s.intake.fetch.isNone

/-- A pending entry only reserved (R8). -/
def PendingEntry.reserved (age : Nat) (r : RingId) : PendingEntry := ⟨age, r, false, 0, 0, 0, 0⟩

/-- The address of a ring's entry (R8). -/
def Ring.entryAddress (r : Ring) : Addr := r.base + BitVec.ofNat 64 (64 * r.head)

/-- A fetch begins from a ring: an entry is reserved and the read of the record is asked for (R8). -/
def State.beginFetch (s : State) (r : RingId) : State :=
  let age := s.intake.nextAge
  let t := { s with intake := { s.intake with
    fetch := some ⟨r, age⟩
    table := s.intake.table ++ [PendingEntry.reserved age r]
    nextAge := age + 1 } }
  t.modBus fun b => { b with class2 := b.class2 ++ [⟨.fetch, (s.ring r).entryAddress, 64⟩] }

/-- FETCH_BEGIN (R7, R8, R10, R11). -/
def execFetchBegin (s : State) : Result :=
  .next (if s.fetchAllowed then
      match s.pickRing with
      | some (r, t) => t.beginFetch r
      | none => s
    else s)

/-! ### Reads that end (R190) -/

/-- The read outstanding under a number. -/
def State.readAt (s : State) (k : Nat) : Option OutstandingRead := s.link.bus.outstanding[k]?

/-- The outstanding fetch, by number. -/
def State.fetchRead (s : State) : Option Nat :=
  s.link.bus.outstanding.findIdx? fun r => r.request.kind == .fetch

/-- A read has ended. -/
def State.endRead (s : State) (k : Nat) : State :=
  s.modBus fun b => { b with outstanding := b.outstanding.eraseIdx k }

/-- The fetch in flight is over. -/
def State.endFetch (s : State) : State := { s with intake := { s.intake with fetch := none } }

/-! ### The common checks (R12) -/

/-- The common checks on a record taken from a ring: the status of the first that fails, or the command. -/
def commonCheck (ring : RingId) (limit : Addr) (record : List Byte) : Status ⊕ Command :=
  match Opcode.ofByte (byteAt record 0) with
  | none => .inl .badOpcode
  | some o =>
    if o.adminOnly ∧ ring ≠ 0 then .inl .wrongRing
    else if o.addressesContext ∧ 7 < (byteAt record 1).toNat then .inl .badContext
    else if !o.reservedZero record then .inl .badParam
    else
      let cmd := o.read record
      if cmd.addressOk limit then .inr cmd else .inl .badAddress

/-- A pending entry is filled from the record, with the ring's new head (R8). -/
def PendingEntry.fill (e : PendingEntry) (record : List Byte) (head : Nat) : PendingEntry :=
  { e with
    filled := true
    tag := wordAt record 4
    opcode := byteAt record 0
    context := byteAt record 1
    subHead := head }

/-- The ring's head moves past the record. -/
def Ring.advanced (r : Ring) : Ring := { r with head := (r.head + 1) % r.size }

/-- The record is taken: the head advances, the entry is filled, and a current ring left empty ends its turn (R8, R11). -/
def State.takeRecord (s : State) (f : Fetch) (record : List Byte) : State :=
  let ring := (s.ring f.ring).advanced
  let t := s.setRing f.ring ring
  let emptied := s.intake.current = some f.ring ∧ ring.unfetched = 0
  { t with intake := { t.intake with
    fetch := none
    table := t.intake.table.map fun e => if e.age = f.entry then e.fill record ring.head else e
    taken := if emptied then ring.weight else t.intake.taken
    turnOver := if emptied then true else t.intake.turnOver } }

/-- The command goes to the common checks, and from them to its owner or straight to its completion (R12, R14). -/
def State.dispatchRecord (s : State) (f : Fetch) (record : List Byte) : State :=
  match commonCheck f.ring s.link.regs.dmaLimit record with
  | .inl st => s.complete f.entry st 0 0 0
  | .inr cmd =>
    { s with intake := { s.intake with dispatched := s.intake.dispatched ++ [⟨f.entry, f.ring, cmd⟩] } }

/-- The data of a fetch has come: taken from an ACTIVE ring; from a HALTED one discarded, its entry freed (R4, R8). -/
def State.fetchData (s : State) (f : Fetch) (record : List Byte) : State :=
  if (s.ring f.ring).state = .active then (s.takeRecord f record).dispatchRecord f record
  else (s.freeEntry f.entry).endFetch

/-- FETCH_RETURN (R8, R12, R14, R190). In FAILED the data is discarded and nobody is told (R27). -/
def execFetchReturn (record : List Byte) (s : State) : Result :=
  .next (match s.fetchRead with
    | some k =>
      if record.length = 64 ∧ s.link.operating then
        if s.link.device = .online then
          match s.intake.fetch with
          | some f => (s.endRead k).fetchData f record
          | none => s.endRead k
        else s.endRead k
      else s
    | none => s)

/-! ### The end of a load (R52 to R57) -/

/-- The context a load gives up its slots to DEFINED (R57). -/
def Ctx.loadFailed (x : Ctx) : Ctx := { x with state := .defined, slots := 0, steps := [], load := none }

/-- The load succeeds: its slots hold the steps and the context is READY (R56). -/
def Ctx.loadDone (x : Ctx) (steps : List Step) : Ctx := { x with state := .ready, steps := steps, load := none }

/-- A load ends without success: the slots are given up, then its completion is handed in (R57). -/
def State.failLoad (s : State) (c : CtxId) (load : Nat) (st : Status) (w0 w1 w2 : Word) : State :=
  (s.modCtx c Ctx.loadFailed).complete load st w0 w1 w2

/-- The step list of a load has come: it is validated at once and the load ends (R54, R55, R56). -/
def State.loadData (s : State) (c : CtxId) (load : Nat) (data : List Byte) : State :=
  let raw := rawStepsOf (data.length / 8) data
  match s.firstBadStep 0 raw with
  | some (i, reason) => s.failLoad c load .badStep (word i) (word reason) 0
  | none =>
    let steps := raw.map RawStep.kept
    let n := scanPositions steps
    let x := s.ctx c
    let size := frameBytes x.definition.format n
    if quotaHolds x.cap.quota x.definition.depth size then
      (s.modCtx c (·.loadDone steps)).complete load .ok (word n) (word (frameBytes .packed n))
        (word (frameBytes .framed n))
    else s.failLoad c load .stagingShort (word n) (word size) (word (Config.unitBytes * x.cap.quota))

/-- The load a read belongs to is still in flight; otherwise the read is a discarded one (R58). -/
def State.loadLive (s : State) (c : CtxId) (load : Nat) : Bool :=
  s.link.device == .online && (s.ctx c).load == some load

/-- SEQUENCE_READ_RETURN (R52, R54 to R58). The data of a discarded read, or in FAILED, goes nowhere. -/
def execSequenceReadReturn (read : Nat) (data : List Byte) (s : State) : Result :=
  .next (match s.readAt read with
    | some r =>
      match r.request.kind with
      | .steps c load =>
        if data.length = r.request.length ∧ s.link.operating then
          if s.loadLive c load then (s.endRead read).loadData c load data else s.endRead read
        else s
      | .fetch => s
    | none => s)

/-- The fetch in flight fails: its entry is freed, and an ACTIVE ring halts with FETCH_ERROR (R4, R9). -/
def State.fetchFails (s : State) (f : Fetch) (cause : Nat) : State :=
  let t := (s.freeEntry f.entry).endFetch
  if (t.ring f.ring).state = .active then t.haltRing f.ring .fetchError (word (t.ring f.ring).head) (word cause)
  else t

/-- A read fails with a cause, and its requester is told unless the device is FAILED or the read is discarded
(R9, R52, R190). -/
def State.readFails (s : State) (k : Nat) (r : OutstandingRead) (cause : Nat) : State :=
  let t := s.endRead k
  if s.link.device = .online then
    match r.request.kind with
    | .fetch =>
      match s.intake.fetch with
      | some f => t.fetchFails f cause
      | none => t
    | .steps c load =>
      if s.loadLive c load then t.failLoad c load .fetchError 0 (word cause) 0 else t
  else t

/-- READ_ERROR_COMPLETION (R190): the read fails with cause 1. -/
def execReadErrorCompletion (read : Nat) (s : State) : Result :=
  .next (match s.readAt read with
    | some r => if s.link.operating then s.readFails read r 1 else s
    | none => s)

/-- READ_TIMEOUT (R190): 50 ms after its request was sent, the read fails with cause 2. -/
def execReadTimeout (read : Nat) (s : State) : Result :=
  .next (match s.readAt read with
    | some r => (s.advanceTo (timeAfter r.sentAt Config.readTimeoutCounts)).readFails read r 2
    | none => s)

end Sys2Proof.Machine
end

