-- ==== Sys2Proof/Machine/ContextCommands.lean ====
section
/-!
DEFINITION. Family: the Context Table's commands and PULSE. DEFINE_CONTEXT, ARM, STOP, ABORT, RESET_CONTEXT,
RELEASE_CONTEXT, PULSE.
-/

namespace Sys2Proof.Machine

open Sys2Proof

/-! ### DEFINE_CONTEXT (R62 to R64) -/

/-- The units not held by the other bound contexts (R63). -/
def State.unitsForCtx (s : State) (c : CtxId) : Nat :=
  Config.stagingUnits - (s.unitsHeld - (s.ctx c).cap.quota)

/-- The answer to a DEFINE_CONTEXT that R62 or R63 refuses: the first check that fails, if one fails. -/
def State.defineRefusal (s : State) (c : CtxId) (p : DefineParams) : Option Answer :=
  let x := s.ctx c
  match defineFault p with
  | some n => some (answer .badParam (word n) 0 0)
  | none =>
    let d := definitionOf p
    let quota := p.quota.toNat
    let positions := scanPositions x.steps
    if x.state ≠ .unbound ∧ x.state ≠ .defined ∧ x.state ≠ .ready then some (answer .badState 0 0 0)
    else if x.cap.queue ≠ [] then some (answer .buffersHeld 0 0 0)
    else if s.unitsForCtx c < quota then some (answer .stagingFull (word (s.unitsForCtx c)) (word quota) 0)
    else if x.steps ≠ [] ∧ !quotaHolds quota d.depth (frameBytes d.format positions) then
      some (answer .stagingShort (word positions) (word (frameBytes d.format positions))
        (word (Config.unitBytes * quota)))
    else none

/-- The definition and the quota are replaced; READY stays READY (R64). -/
def Ctx.defined (x : Ctx) (d : Definition) (quota : Nat) : Ctx :=
  { x with
    state := if x.state = .ready then .ready else .defined
    defn := some d
    cap := { x.cap with quota := quota } }

/-- DEFINE_CONTEXT (R62, R63, R64). -/
def execDefineContext (src : RingId) (ctx : CtxId) (p : DefineParams) (s : State) : Result :=
  .next (s.ownerTakes src (.defineContext ctx p) fun e t =>
    match t.defineRefusal ctx p with
    | some a => t.handIn [.command e a]
    | none =>
      let u := t.modCtx ctx (·.defined (definitionOf p) p.quota.toNat)
      let size := if (u.ctx ctx).steps = [] then 0 else (u.ctx ctx).frameSize
      u.complete e .ok (word u.unitsFree) (word size) 0)

/-! ### ARM (R66, R67, R69, R97) -/

/-- The smallest INTERNAL period a sequence allows in a pacing mode (R67 check 1). -/
def minPeriod (mode : PaceMode) (steps : List Step) : Nat :=
  match mode with
  | .step => longestSlot steps
  | .scan => scanCounts steps

/-- A step at gain ×64 or ×128 with settle extension 0 (R67 check 2). -/
def State.settleShort (s : State) (st : Step) : Bool :=
  if h : st.input < 32 then
    let gain := if st.gain ≤ 7 then st.gain else (s.chan ⟨st.input, h⟩).gain
    6 ≤ gain && st.settle == 0
  else false

/-- The answer to an ARM that R66 refuses: the first check that fails, if one fails. -/
def State.armRefusal (s : State) (c : CtxId) : Option Answer :=
  let x := s.ctx c
  let d := x.definition
  if x.state ≠ .ready then some (answer .badState 0 0 0)
  else
    match d.source with
    | .internal period =>
      if period < minPeriod d.mode x.steps then some (answer .periodShort (word (minPeriod d.mode x.steps)) 0 0)
      else later x d
    | .line _ _ | .soft => later x d
where
  /-- Checks 2 to 5 of R66. -/
  later (x : Ctx) (d : Definition) : Option Answer :=
    match x.steps.findIdx? s.settleShort with
    | some i => some (answer .settleShort (word i) 0 0)
    | none =>
      match x.steps.findIdx? fun st => s.isPartner st.input with
      | some i => some (answer .pairConflict (word i) 0 0)
      | none =>
        match d.linesNamed.find? fun l => (s.line l).mode != .input with
        | some l => some (answer .lineMode (word l.val) 0 0)
        | none => if s.conv.cal.entry.isSome then some (answer .calibrating 0 0 0) else none

/-- History pacing begins with the ARM (R97 step 4). -/
def Definition.keepsHistory (d : Definition) : Bool := 0 < d.depth && d.start != .immediate

/-- The pacing record of an armed context (R97, steps 1 to 4). -/
def Pacing.armed (p : Pacing) (d : Definition) (now : Time) : Pacing :=
  { p with
    nextPos := 0
    tick := .free
    countReached := false
    deadline := msDeadline now d.timeout
    watcher := .start
    phase := if d.keepsHistory then .history else p.phase
    origin := if d.keepsHistory then
        match d.source with
        | .internal _ => now
        | .line _ _ | .soft => p.origin
      else p.origin
    ticks := if d.keepsHistory then
        match d.source with
        | .internal _ => 0
        | .line _ _ | .soft => p.ticks
      else p.ticks }

/-- The context goes to ARMED with its counters zero and the ARM kept (R69 steps 1 to 3, R97). Last written becomes
none (R146). -/
def Ctx.armedBy (x : Ctx) (entry : Nat) (now : Time) : Ctx :=
  { x with
    state := .armed
    run := { Run.reset with armEntry := some entry }
    pacing := x.pacing.armed x.definition now
    cap := { x.cap with lastWritten := none } }

/-- ARM (R66, R69). An IMMEDIATE start trigger is taken at once (R97 step 5). -/
def execArm (src : RingId) (ctx : CtxId) (s : State) : Result :=
  .next (s.ownerTakes src (.arm ctx) fun e t =>
    match t.armRefusal ctx with
    | some a => t.handIn [.command e a]
    | none =>
      let u := t.modCtx ctx (·.armedBy e t.timeBase)
      if (u.ctx ctx).definition.start = .immediate then u.takeTrigger ctx else u)

/-! ### STOP (R77) -/

/-- A STOP is kept among the run commands. -/
def Ctx.keepStop (x : Ctx) (entry : Nat) : Ctx := { x with run := { x.run with stops := x.run.stops ++ [entry] } }

/-- What a STOP does to the run of an active context. -/
def Ctx.stopEffect (x : Ctx) : Ctx :=
  match x.state, x.run.endReason with
  | .running, _ => x.stopRun .stopped
  | .armed, none => x.endInArmed .stopped
  | _, _ => x

/-- STOP (R72, R77, R78, R80). -/
def execStop (src : RingId) (ctx : CtxId) (s : State) : Result :=
  .next (s.ownerTakes src (.stop ctx) fun e t =>
    if (t.ctx ctx).state.active then (t.modCtx ctx fun x => (x.keepStop e).stopEffect).settleCtx ctx
    else t.complete e .badState 0 0 0)

/-! ### ABORT (R58, R80 to R83) -/

/-- An ABORT is kept among the run commands. -/
def Ctx.keepAbort (x : Ctx) (entry : Nat) : Ctx := { x with run := { x.run with aborts := x.run.aborts ++ [entry] } }

/-- What the first ABORT of a run does to its context. -/
def Ctx.abortEffect (x : Ctx) : Ctx :=
  match x.state with
  | .armed => x.abortArmed
  | _ => x.abortRun

/-- An ARM completion that waits gives up its place among the claimants (R80). -/
def State.giveUpPlace (s : State) (c : CtxId) : State :=
  match (s.ctx c).nextHandIn (s.holdsConverter c) with
  | some (.armAnswer _ _) =>
    { s with cpl := { s.cpl with claimants := s.cpl.claimants.filter (· != .context c) } }
  | _ => s

/-- ABORT of an active context: a second one only joins the run end. -/
def State.abortActive (s : State) (c : CtxId) (entry : Nat) : State :=
  if (s.ctx c).run.endReason = some .aborted then s.modCtx c (·.keepAbort entry)
  else
    ((((s.giveUpPlace c).modCtx c fun x => x.abortEffect.keepAbort entry).takeBackGrant c)).settleCtx c

/-- ABORT of a load: the load's completion, then the ABORT's own (R57, R58). -/
def State.abortLoad (s : State) (c : CtxId) (entry : Nat) : State :=
  let own : Claim := .command entry (answer .ok 0 0 0)
  match (s.ctx c).load with
  | some load => (s.modCtx c Ctx.loadFailed).handIn [.command load (answer .aborted 0 0 0), own]
  | none => (s.modCtx c Ctx.loadFailed).handIn [own]

/-- A command whose completion follows the buffers returned before it (R81, R91, R92, R158). -/
def Ctx.answerBehind (x : Ctx) (entry : Nat) (a : Answer) : Ctx :=
  { x with cap := { x.cap with returns := x.cap.returns ++ [.command entry a] } }

/-- ABORT (R58, R81, R82, R83). -/
def execAbort (src : RingId) (event : CtxEvent) (s : State) : Result :=
  .next (s.ownerTakes src (.abort event.ctx) fun e t =>
    match (t.ctx event.ctx).state with
    | .armed | .running | .stopping => (t.abortActive event.ctx e).readBy s event.read
    | .loading => t.abortLoad event.ctx e
    | .ready =>
      if (t.ctx event.ctx).cap.queue = [] then t.complete e .ok 0 0 0
      else (t.modCtx event.ctx fun x => x.returnQueue.answerBehind e (answer .ok 0 0 0)).settleCtx event.ctx
    | .unbound | .defined | .halted => t.complete e .badState 0 0 0)

/-! ### RESET_CONTEXT and RELEASE_CONTEXT (R91, R92) -/

/-- The run counters and the next scan number become zero (R74, R91, R92). -/
def Run.cleared (r : Run) : Run :=
  { r with
    numbered := 0
    delivered := 0
    dropped := 0
    discarded := 0
    slips := 0
    historyDelivered := 0
    nextScan := 0
    begun := 0 }

/-- RESET_CONTEXT's part in the context record. -/
def Ctx.wasReset (x : Ctx) : Ctx :=
  { x.returnQueue with
    state := if x.state = .defined then .defined else .ready
    run := x.run.cleared }

/-- The completion waits behind the returned buffers, and the cancelled output updates are handed in beside it (R91,
R178, log 15). -/
def State.finishReturn (s : State) (c : CtxId) (entry : Nat) (a : Answer) : State :=
  let t := s.modCtx c (·.answerBehind entry a)
  let o := t.cancelUpdates c
  o.1.handIn (o.1.contextClaim c ++ o.2)

/-- RESET_CONTEXT (R91). -/
def execResetContext (src : RingId) (ctx : CtxId) (s : State) : Result :=
  .next (s.ownerTakes src (.resetContext ctx) fun e t =>
    let x := t.ctx ctx
    match x.state with
    | .defined | .ready | .halted =>
      (t.modCtx ctx Ctx.wasReset).finishReturn ctx e (answer .ok (word x.cap.queue.length) 0 0)
    | .unbound | .loading | .armed | .running | .stopping => t.complete e .badState 0 0 0)

/-- RELEASE_CONTEXT's part in the context record: definition, slots and quota are given up. -/
def Ctx.released (x : Ctx) : Ctx :=
  let y := x.returnQueue
  { y with
    state := .unbound
    defn := none
    slots := 0
    steps := []
    run := x.run.cleared
    cap := { y.cap with quota := 0 } }

/-- RELEASE_CONTEXT (R92). -/
def execReleaseContext (src : RingId) (ctx : CtxId) (s : State) : Result :=
  .next (s.ownerTakes src (.releaseContext ctx) fun e t =>
    let x := t.ctx ctx
    match x.state with
    | .unbound => t.complete e .ok 0 0 0
    | .defined | .ready | .halted =>
      (t.modCtx ctx Ctx.released).finishReturn ctx e
        (answer .ok (word x.cap.queue.length) (word x.slots) (word x.cap.quota))
    | .loading | .armed | .running | .stopping => t.complete e .badState 0 0 0)

/-! ### PULSE (R100) -/

/-- The context is paced by PULSE and takes ticks (R100). -/
def Ctx.takesPulse (x : Ctx) : Bool := x.definition.source == .soft && x.pacing.phase != .off

/-- The value words of an accepted PULSE: its disposition, and in STEP mode the position asked for (R100). -/
def pulseAnswer (mode : PaceMode) (o : TickOutcome) : Answer :=
  match o with
  | .notTaken => answer .ok 0 0 0
  | .taken pos =>
    answer .ok 1 (match mode with
      | .step => word pos
      | .scan => 0) 0
  | .slip => answer .ok 2 0 0

/-- PULSE (R100): its completion is handed in before any completion its tick leads to. -/
def execPulse (src : RingId) (event : CtxEvent) (s : State) : Result :=
  .next (s.ownerTakes src (.pulse event.ctx) fun e t =>
    let x := t.ctx event.ctx
    if x.state.active then
      let d := if x.takesPulse then t.deliverTick event.ctx else (t, .notTaken)
      ((d.1.handIn [.command e (pulseAnswer x.definition.mode d.2)]).settleCtx event.ctx).readBy s event.read
    else t.complete e .badState 0 0 0)

end Sys2Proof.Machine
end

