-- ==== Sys2Proof/Machine/LineCommands.lean ====
section
/-!
DEFINITION. Family: the Line Unit and the Output Unit's commands. SET_LINES, SET_COUNTER, SET_OUTPUT, LINE_EDGE,
EVENT_PULSE_END.
-/

namespace Sys2Proof.Machine

open Sys2Proof

/-! ### SET_LINES (R165, R166) -/

/-- The lines in number order. -/
def allLines : List LineId := List.finRange 16

/-- The change flag of a line (R197). -/
def flagged (flags : Half) (l : LineId) : Bool := flags.getLsbD l.val

/-- The setting carried for a line; one not carried is zero. -/
def settingOf (settings : List Half) (l : LineId) : Half := settings.getD l.val 0

/-- The status of the first check of R165 that a line fails, if it fails one. -/
def State.lineFault (s : State) (flags : Half) (settings : List Half) (l : LineId) : Option Status :=
  if flagged flags l then
    match lineModeOf (settingOf settings l) with
    | none => some .badParam
    | some m => if s.lineInUse l ∧ m ≠ .input then some .lineInUse else none
  else if settingOf settings l ≠ 0 then some .badParam
  else none

/-- The first line that fails, with the status (R165). -/
def State.firstBadLine (s : State) (flags : Half) (settings : List Half) : Option (LineId × Status) :=
  allLines.findSome? fun l => (s.lineFault flags settings l).map fun st => (l, st)

/-- A line takes a new setting; an equal one changes nothing, and a pulse goes on (R166). `pin` is the level that
stands at the input. -/
def Line.setMode (l : Line) (m : LineMode) (pin : Bool) : Line :=
  if l.mode = m then l
  else ⟨m, if m = .input then pin else false, none⟩

/-- The line after the command. -/
def State.lineSet (s : State) (flags : Half) (settings : List Half) (l : LineId) : Line :=
  match flagged flags l, lineModeOf (settingOf settings l) with
  | true, some m => (s.line l).setMode m (s.lines.pins.getLsbD l.val)
  | _, _ => s.line l

/-- Every flagged line takes its setting at once (R166). -/
def State.setLines (s : State) (flags : Half) (settings : List Half) : State :=
  { s with lines := { s.lines with lines := Vector.ofFn fun l : Fin 16 => s.lineSet flags settings l } }

/-- The number of lines whose setting changes (R166). -/
def State.linesChanged (s : State) (flags : Half) (settings : List Half) : Nat :=
  (allLines.filter fun l => (s.line l).mode != (s.lineSet flags settings l).mode).length

/-- SET_LINES (R165, R166). -/
def execSetLines (flags : Half) (settings : List Half) (s : State) : Result :=
  .next (s.ownerTakes 0 (.setLines flags settings) fun e t =>
    match t.firstBadLine flags settings with
    | some (l, st) => t.complete e st (word l.val) 0 0
    | none =>
      let u := t.setLines flags settings
      u.complete e .ok (u.lineSnapshot.setWidth 32) (word (t.linesChanged flags settings)) 0)

/-! ### SET_COUNTER (R171) -/

/-- The source NONE of a SET_COUNTER (R197). -/
def noSource : Byte := 255

/-- The status of the first check of R171 that fails, if one fails. -/
def State.counterFault (s : State) (counter source edge : Byte) : Option Status :=
  if 1 < counter.toNat then some .badParam
  else if source = noSource then (if edge = 0 then none else some .badParam)
  else if !isLine source then some .badParam
  else if !isEdge edge then some .badParam
  else if (s.line (lineOf source)).mode ≠ .input then some .lineMode
  else none

/-- The source a SET_COUNTER gives. -/
def counterSource (source edge : Byte) : Option (LineId × Edge) :=
  if source = noSource then none else some (lineOf source, edgeOf edge)

/-- A counter's source as a value word: 255 for NONE (R171). -/
def Counter.sourceWord (k : Counter) : Word :=
  match k.source with
  | some (l, _) => word l.val
  | none => 255

/-- SET_COUNTER (R171). -/
def execSetCounter (counter source edge : Byte) (s : State) : Result :=
  .next (s.ownerTakes 0 (.setCounter counter source edge) fun e t =>
    match t.counterFault counter source edge with
    | some st => t.complete e st 0 0 0
    | none =>
      let k : Fin 2 := Fin.ofNat 2 counter.toNat
      let old := t.counter k
      (t.setCounter k ⟨counterSource source edge, 0⟩).complete e .ok old.count old.sourceWord 0)

/-! ### SET_OUTPUT (R174 to R176) -/

/-- The status of the first check of R174 that fails, if one fails. -/
def State.outputFault (s : State) (c : CtxId) (output kind : Byte) : Option Status :=
  if 1 < output.toNat then some .badParam
  else if 2 < kind.toNat then some .badParam
  else if kind = 0 ∧ c ≠ 0 then some .badParam
  else if kind ≠ 0 ∧ (s.ctx c).state = .unbound then some .badState
  else none

/-- The answer of a superseded update (R175, R176). -/
def Output.superseded (o : Output) (n : Fin 2) : List Claim :=
  match o.update with
  | some d =>
    [.command d.entry (answer .superseded (word n.val) (d.code.setWidth 32) (o.code.setWidth 32))]
  | none => []

/-- The answer of a code applied at an instant (R176). -/
def appliedAnswer (n : Fin 2) (code before : Half) (now : Time) : Answer :=
  ⟨.command .ok, word n.val, code.setWidth 32, before.setWidth 32, some now⟩

/-- An accepted SET_OUTPUT (R175): the pending update is superseded, then the code is applied or held. -/
def State.setOutput (s : State) (e : Nat) (c : CtxId) (n : Fin 2) (kind : Byte) (code : Half) : State :=
  let o := s.out n
  if kind = 0 then
    (s.setOut n ⟨code, none⟩).handIn
      (o.superseded n ++ [.command e (appliedAnswer n code o.code s.timeBase)])
  else
    (s.setOut n ⟨o.code, some ⟨code, if kind = 1 then .runStart else .runEnd, c, e⟩⟩).handIn (o.superseded n)

/-- SET_OUTPUT (R174, R175, R176). -/
def execSetOutput (src : RingId) (ctx : CtxId) (output kind : Byte) (code : Half) (s : State) : Result :=
  .next (s.ownerTakes src (.setOutput ctx output kind code) fun e t =>
    match t.outputFault ctx output kind with
    | some st => t.complete e st 0 0 0
    | none => t.setOutput e ctx (Fin.ofNat 2 output.toNat) kind code)

/-! ### LINE_EDGE (R162) -/

/-- The levels at the inputs, with one of them changed. -/
def pinsWith (pins : Half) (l : LineId) (level : Bool) : Half :=
  BitVec.ofFnLE fun k : Fin 16 => if k = l then level else pins.getLsbD k.val

/-- The filtered level of a line changes. -/
def State.seeLevel (s : State) (l : LineId) (level : Bool) : State :=
  s.setLine l { s.line l with seen := level }

/-- An edge is handed on: to the counters and to the contexts, each on their own (R99, R107, R112, R162), in an order R162
and R172 leave open (log 11). In FAILED to none (R161). -/
def State.handEdge (s : State) (l : LineId) (e : Edge) (order : List EdgeTaker) : State :=
  if s.link.device = .failed then s else (completeOrder EdgeTaker.all order).foldl (State.takeEdge l e) s

/-- LINE_EDGE (R161, R162): a level has stood 200 ns at a line's input. It is an edge if the line is in INPUT mode
and its level changes. -/
def execLineEdge (line : LineId) (level : Bool) (order : List EdgeTaker) (read : ReadOrder) (s : State) : Result :=
  let t := { s with lines := { s.lines with pins := pinsWith s.lines.pins line level } }
  .next (if (t.line line).mode = .input ∧ (t.line line).seen ≠ level then
      ((t.seeLevel line level).handEdge line (if level then .rising else .falling) order).readBy s read
    else t)

/-! ### EVENT_PULSE_END (R169) -/

/-- EVENT_PULSE_END (R161, R169): the time base reaches a line's pulse end. It does so in FAILED too. -/
def execEventPulseEnd (line : LineId) (s : State) : Result :=
  .next (match (s.line line).pulseEnd with
    | some t => (s.advanceTo t).setLine line { s.line line with pulseEnd := none }
    | none => s)

end Sys2Proof.Machine
end

