-- ==== Sys2Proof/Machine/PacingEvents.lean ====
section
/-!
DEFINITION. Family: pacing and conversion events. INTERNAL_TICK, SLOT_END, TRIGGER_TIMEOUT.
-/

namespace Sys2Proof.Machine

open Sys2Proof

/-- The divider's next instant is delivered. -/
def Pacing.tickCounted (p : Pacing) (k : Nat) : Pacing := { p with ticks := k + 1 }

/-- The divider of a context delivers its tick of index `k`, at origin + k × period (R98). -/
def State.internalTick (s : State) (c : CtxId) (period : Nat) : State :=
  let p := (s.ctx c).pacing
  let k := p.nextTick period s.timeBase
  ((s.advanceTo (timeAfter p.origin (k * period))).modCtx c fun x =>
    { x with pacing := x.pacing.tickCounted k }).tickContext c

/-- INTERNAL_TICK (R98). -/
def execInternalTick (event : CtxEvent) (s : State) : Result :=
  .next (match s.link.device, (s.ctx event.ctx).definition.source with
    | .online, .internal period =>
      if (s.ctx event.ctx).pacing.phase = .off then s else (s.internalTick event.ctx period).readBy s event.read
    | _, _ => s)

/-- SLOT_END (R104, R116, R123, R124): the slot under way ends at its instant, its sample is handed on, and the grant
goes on or ends. -/
def execSlotEnd (raw : Half) (order : SlotOrder) (s : State) : Result :=
  .next (match s.link.device, s.conv.holder with
    | .online, .context g => (((s.advanceTo g.slot.stop).handSample g raw order.watchers).endSlot g).readBy s order.read
    | _, _ => s)

/-- TRIGGER_TIMEOUT (R72, R111): the time base reaches the deadline, and the run ends in ARMED. -/
def execTriggerTimeout (ctx : CtxId) (s : State) : Result :=
  .next (match s.link.device, (s.ctx ctx).pacing.deadline with
    | .online, some t => ((s.advanceTo t).modCtx ctx (·.endInArmed .triggerTimeout)).settleCtx ctx
    | _, _ => s)

end Sys2Proof.Machine
end

