-- ==== Sys2Proof/Machine/PowerLink.lean ====
section
/-!
DEFINITION. Family: power and link. POWER_ON, LINK_RESET, LINK_LOSS, LINK_RETURN, ENDPOINT_CONFIGURATION_WRITE.
-/

namespace Sys2Proof.Machine

open Sys2Proof

/-- POWER_ON (R195). -/
def execPowerOn (s : State) : Result := .next s.powerOn

/-- LINK_RESET (R186). -/
def execLinkReset (s : State) : Result := .next s.linkReset

/-- LINK_LOSS (R184, R186): from ONLINE the device enters FAILED; otherwise its state is kept. -/
def execLinkLoss (s : State) : Result :=
  .next (if s.link.operating then
      if s.link.device = .online then { s with link := s.link.failByLoss }
      else { s with link := { s.link with operating := false, bus := { s.link.bus with busy := false } } }
    else s)

/-- LINK_RETURN (R186, R194): the device keeps its state; a FAILED message owed since a loss is sent if INT_ENABLE is 1. -/
def execLinkReturn (s : State) : Result :=
  .next (if s.link.operating then s
    else
      let h : HostLink := { s.link with operating := true, failedOwed := false }
      { s with link := if s.link.device = .failed ∧ s.link.failedOwed then h.failedMessage else h })

/-- ENDPOINT_CONFIGURATION_WRITE (R186, R188, R192): the host sets the endpoint's configuration. -/
def execEndpointConfigurationWrite (busMaster messages : Bool) (address : Addr) (s : State) : Result :=
  .next (s.hostAccess fun t => { t with link := { t.link with endpoint := ⟨busMaster, messages, address⟩ } })

end Sys2Proof.Machine
end

