-- ==== Sys2Proof/Machine/RegisterWindow.lean ====
section
/-!
DEFINITION. Family: the register window. ENABLE, SOFT_RESET, INT_ENABLE, SUBMIT_TAIL, CPL_HEAD, INT_CAUSE_READ,
INT_COALESCE, REGISTER_WRITE.
-/

namespace Sys2Proof.Machine

open Sys2Proof

/-- ENABLE (R182): a CONTROL write with ENABLE 1. -/
def execEnable (intEnable : Bool) (s : State) : Result :=
  .next (s.hostAccess fun t => t.writeControl true intEnable)

/-- SOFT_RESET (R183): a CONTROL write with ENABLE 0. -/
def execSoftReset (intEnable : Bool) (s : State) : Result :=
  .next (s.hostAccess fun t => t.writeControl false intEnable)

/-- INT_ENABLE (R193): a CONTROL write that leaves ENABLE as it reads. -/
def execIntEnable (value : Bool) (s : State) : Result :=
  .next (s.hostAccess fun t => t.writeIntEnable value)

/-- SUBMIT_TAIL (R3). -/
def execSubmitTail (ring : RingId) (value : Word) (s : State) : Result :=
  .next (s.hostAccess fun t => t.writeTail ring value)

/-- CPL_HEAD (R19). -/
def execCplHead (value : Word) (s : State) : Result :=
  .next (s.hostAccess fun t => t.writeHead value)

/-- INT_CAUSE_READ (R180): returns INT_CAUSE and then sets it to NONE. -/
def execIntCauseRead (s : State) : Result :=
  .next (s.hostAccess fun t =>
    { t.modRegs (fun r => { r with intCause := .none }) with hostRead := t.readRegister 0x0C })

/-- INT_COALESCE (R180, R193). -/
def execIntCoalesce (value : Word) (s : State) : Result :=
  .next (s.hostAccess fun t => t.writeCoalesce value)

/-- REGISTER_WRITE (R180): a write of any width at any offset of the window. -/
def execRegisterWrite (offset width : Nat) (value : BitVec 64) (s : State) : Result :=
  .next (s.hostAccess fun t => t.writeWindow offset width value)

end Sys2Proof.Machine
end

