-- ==== Sys2Proof/Machine/RingCommands.lean ====
section
/-!
DEFINITION. Family: the Intake's own commands. CREATE_RING, DELETE_RING, BARRIER, REPORT, REPORT_WRITE_DONE.
-/

namespace Sys2Proof.Machine

open Sys2Proof

/-- The status of the first check of R5 that fails, if one fails. -/
def State.createFault (s : State) (ring weight : Byte) (size : Word) : Option Status :=
  if ring = 0 then some .badRing
  else if 4 < ring.toNat then some .badParam
  else if !isPowerOfTwoIn 4 1024 size.toNat then some .badParam
  else if weight.toNat < 1 ∨ 8 < weight.toNat then some .badParam
  else if (s.ring (Fin.ofNat 5 ring.toNat)).state ≠ .absent then some .badRing
  else none

/-- CREATE_RING (R5). -/
def execCreateRing (ring weight : Byte) (size : Word) (base : Addr) (s : State) : Result :=
  .next (s.ownerTakes 0 (.createRing ring weight size base) fun e t =>
    match t.createFault ring weight size with
    | some st => t.complete e st 0 0 0
    | none =>
      (t.setRing (Fin.ofNat 5 ring.toNat) ⟨.active, base, size.toNat, weight.toNat, 0, 0⟩).complete e .ok 0 0 0)

/-- The status of the first check of R6 that fails, if one fails. -/
def State.deleteFault (s : State) (ring : Byte) : Option Status :=
  if 4 < ring.toNat then some .badParam
  else if ring = 0 ∨ (s.ring (Fin.ofNat 5 ring.toNat)).state = .absent then some .badRing
  else if s.intake.table.any fun e => e.ring == Fin.ofNat 5 ring.toNat then some .ringBusy
  else none

/-- A ring's round-robin turn ends (R4, R6). -/
def State.endTurnOf (s : State) (r : RingId) : State :=
  { s with intake := { s.intake with turnOver := s.intake.turnOver || s.intake.current == some r } }

/-- DELETE_RING (R6). -/
def execDeleteRing (ring : Byte) (s : State) : Result :=
  .next (s.ownerTakes 0 (.deleteRing ring) fun e t =>
    match t.deleteFault ring with
    | some st => t.complete e st 0 0 0
    | none =>
      let r : RingId := Fin.ofNat 5 ring.toNat
      ((t.setRing r Ring.absent).endTurnOf r).complete e .ok 0 0 0)

/-- An earlier entry of the same ring is pending (R23). -/
def State.earlierPending (s : State) (r : RingId) (entry : Nat) : Bool :=
  s.intake.table.any fun e => e.ring == r && e.age < entry

/-- BARRIER (R23): it completes at once, or waits for the last earlier command of its ring. -/
def execBarrier (src : RingId) (s : State) : Result :=
  .next (s.ownerTakes src .barrier fun e t =>
    if t.earlierPending src e then
      { t with intake := { t.intake with barriers := t.intake.barriers ++ [e] } }
    else t.complete e .ok 0 0 0)

/-- REPORT (R24): the snapshot is taken at once and its write asked for. -/
def execReport (address : Addr) (s : State) : Result :=
  .next (s.ownerTakes 0 (.report address) fun e t =>
    t.modBus fun b => { b with class4 := b.class4 ++ [⟨e, address, t.reportBytes, t.timeBase⟩] })

/-- The link has sent the transfer that was on it. -/
def State.sent (s : State) : State := s.modBus fun b => { b with busy := false }

/-- What is being sent on the link. -/
def Bus.sending (b : Bus) : Option Transfer := if b.busy then b.onLink else none

/-- REPORT_WRITE_DONE (R25): the REPORT completes OK with the time of its snapshot. -/
def execReportWriteDone (s : State) : Result :=
  .next (match s.link.device, s.link.bus.sending with
    | .online, some (.report w) =>
      s.sent.handIn [.command w.entry ⟨.command .ok, 0, 0, 0, some w.takenAt⟩]
    | _, _ => s)

end Sys2Proof.Machine
end

