-- ==== Sys2Proof/Machine/SequenceCommands.lean ====
section
/-!
DEFINITION. Family: the Step Pool's command. LOAD_SEQUENCE.
-/

namespace Sys2Proof.Machine

open Sys2Proof

/-- The answer to a LOAD_SEQUENCE that R49 refuses: the first check that fails, if one fails. -/
def State.loadFault (s : State) (c : CtxId) (count : Half) : Option Answer :=
  let x := s.ctx c
  if count.toNat < 1 ∨ 64 < count.toNat then some (answer .badParam 0 0 0)
  else if x.state ≠ .defined ∧ x.state ≠ .ready then some (answer .badState 0 0 0)
  else if x.cap.queue ≠ [] then some (answer .buffersHeld 0 0 0)
  else if s.slotsFree + x.slots < count.toNat then
    some (answer .poolFull (word s.slotsFree) (word x.slots) (word count.toNat))
  else none

/-- The context goes to LOADING: its old slots and sequence are gone, and slots for the new steps are reserved (R51). -/
def Ctx.loading (x : Ctx) (count entry : Nat) : Ctx :=
  { x with state := .loading, slots := count, steps := [], load := some entry }

/-- The read of the step list is asked for (R52). -/
def State.askSteps (s : State) (c : CtxId) (entry count : Nat) (address : Addr) : State :=
  s.modBus fun b => { b with class2 := b.class2 ++ [⟨.steps c entry, address, 8 * count⟩] }

/-- LOAD_SEQUENCE (R49, R51, R52). -/
def execLoadSequence (src : RingId) (ctx : CtxId) (count : Half) (address : Addr) (s : State) : Result :=
  .next (s.ownerTakes src (.loadSequence ctx count address) fun e t =>
    match t.loadFault ctx count with
    | some a => t.handIn [.command e a]
    | none => (t.modCtx ctx (·.loading count.toNat e)).askSteps ctx e count.toNat address)

end Sys2Proof.Machine
end

