-- ==== Sys2Proof/Machine/Dispatch.lean ====
section
/-! DEFINITION. The meaning of every command: one arm for each row of spec/opcode_table.json. -/

namespace Sys2Proof.Machine

open Sys2Proof

def exec (i : Instr) (s : State) : Host.Outcome State Fault Refusal :=
  match i with
  | .powerOn => Sys2Proof.Machine.execPowerOn s
  | .linkReset => Sys2Proof.Machine.execLinkReset s
  | .linkLoss => Sys2Proof.Machine.execLinkLoss s
  | .linkReturn => Sys2Proof.Machine.execLinkReturn s
  | .enable intEnable => Sys2Proof.Machine.execEnable intEnable s
  | .softReset intEnable => Sys2Proof.Machine.execSoftReset intEnable s
  | .intEnable value => Sys2Proof.Machine.execIntEnable value s
  | .submitTail ring value => Sys2Proof.Machine.execSubmitTail ring value s
  | .cplHead value => Sys2Proof.Machine.execCplHead value s
  | .intCauseRead => Sys2Proof.Machine.execIntCauseRead s
  | .intCoalesce value => Sys2Proof.Machine.execIntCoalesce value s
  | .registerWrite offset width value => Sys2Proof.Machine.execRegisterWrite offset width value s
  | .fetchBegin => Sys2Proof.Machine.execFetchBegin s
  | .fetchReturn record => Sys2Proof.Machine.execFetchReturn record s
  | .sequenceReadReturn read data => Sys2Proof.Machine.execSequenceReadReturn read data s
  | .readErrorCompletion read => Sys2Proof.Machine.execReadErrorCompletion read s
  | .readTimeout read => Sys2Proof.Machine.execReadTimeout read s
  | .createRing ring weight size base => Sys2Proof.Machine.execCreateRing ring weight size base s
  | .deleteRing ring => Sys2Proof.Machine.execDeleteRing ring s
  | .barrier src => Sys2Proof.Machine.execBarrier src s
  | .report address => Sys2Proof.Machine.execReport address s
  | .reportWriteDone => Sys2Proof.Machine.execReportWriteDone s
  | .setChannel p => Sys2Proof.Machine.execSetChannel p s
  | .rearmLimit channel => Sys2Proof.Machine.execRearmLimit channel s
  | .loadSequence src ctx count address => Sys2Proof.Machine.execLoadSequence src ctx count address s
  | .defineContext src ctx p => Sys2Proof.Machine.execDefineContext src ctx p s
  | .arm src ctx => Sys2Proof.Machine.execArm src ctx s
  | .stop src ctx => Sys2Proof.Machine.execStop src ctx s
  | .abort src event => Sys2Proof.Machine.execAbort src event s
  | .resetContext src ctx => Sys2Proof.Machine.execResetContext src ctx s
  | .releaseContext src ctx => Sys2Proof.Machine.execReleaseContext src ctx s
  | .pulse src event => Sys2Proof.Machine.execPulse src event s
  | .calibrate store => Sys2Proof.Machine.execCalibrate store s
  | .calEntryMeasured low high => Sys2Proof.Machine.execCalEntryMeasured low high s
  | .calStoreDone => Sys2Proof.Machine.execCalStoreDone s
  | .postBuffer src ctx length tag address => Sys2Proof.Machine.execPostBuffer src ctx length tag address s
  | .setLines flags settings => Sys2Proof.Machine.execSetLines flags settings s
  | .setCounter counter source edge => Sys2Proof.Machine.execSetCounter counter source edge s
  | .setOutput src ctx output kind code => Sys2Proof.Machine.execSetOutput src ctx output kind code s
  | .lineEdge line level order read => Sys2Proof.Machine.execLineEdge line level order read s
  | .internalTick event => Sys2Proof.Machine.execInternalTick event s
  | .slotEnd raw order => Sys2Proof.Machine.execSlotEnd raw order s
  | .triggerTimeout ctx => Sys2Proof.Machine.execTriggerTimeout ctx s
  | .flushTimer ctx => Sys2Proof.Machine.execFlushTimer ctx s
  | .eventPulseEnd line => Sys2Proof.Machine.execEventPulseEnd line s
  | .frameWriteBegin ctx staging => Sys2Proof.Machine.execFrameWriteBegin ctx staging s
  | .frameWriteEnd => Sys2Proof.Machine.execFrameWriteEnd s
  | .claimantHandedIn => Sys2Proof.Machine.execClaimantHandedIn s
  | .completionWriteBegin => Sys2Proof.Machine.execCompletionWriteBegin s
  | .completionWriteDone deadlineFirst => Sys2Proof.Machine.execCompletionWriteDone deadlineFirst s
  | .firstUnsignalledDeadline => Sys2Proof.Machine.execFirstUnsignalledDeadline s
  | .busTransferSend => Sys2Proof.Machine.execBusTransferSend s
  | .endpointConfigurationWrite busMaster messages address => Sys2Proof.Machine.execEndpointConfigurationWrite busMaster messages address s

end Sys2Proof.Machine
end

