-- ==== Sys2Proof/Machine/Step.lean ====
section
/-! DEFINITION. One step: the command at the front of the queue, or one count of the time base. -/

namespace Sys2Proof.Machine

open Sys2Proof

/-- Take the command at the front of the queue and do it. With an empty queue the block idles but for its time base,
which rises by one (R94, log 2). -/
def step (s : State) : Host.Outcome State Fault Refusal :=
  match s.pending with
  | [] => .next s.tickTime
  | c :: rest => exec c { s with pending := rest }

/-- Put the command a word of the table spells at the front of the queue. The table gives no row any bits, so no word
spells one (log 6). -/
def State.withFetchWord (s : State) (nbits w : Nat) : State :=
  match decodeTableWord nbits w with
  | some c => { s with pending := c :: s.pending }
  | none => s

end Sys2Proof.Machine
end

