-- ==== Sys2Proof/WellFormed.lean ====
section
/-!
DEFINITION. When a command is one the block can be sent: the operands whose type allows more than the manual does.
-/

namespace Sys2Proof

/-- Every member of a list once, in some order. -/
def isOrderOf {α : Type} [BEq α] (all order : List α) : Bool :=
  order.length == all.length && all.all fun x => order.contains x

/-- The moments of a reading are of sixteen lines, and of eight contexts. -/
def ReadOrder.wellFormed (r : ReadOrder) : Bool :=
  r.lines.length ≤ 16 && r.scans.length ≤ 8 && r.scans.all fun l => l.length ≤ 16

/-- A fetch returns the 64 bytes it asked for (R8, R190). -/
def isRecordLength (n : Nat) : Bool := n == 64

/-- A step list read returns 8 to 512 bytes, 8 for each step (R52). -/
def isStepListLength (n : Nat) : Bool := n % 8 == 0 && 8 ≤ n && n ≤ 512

/-- SET_LINES carries sixteen line settings (R197). -/
def isSettingsLength (n : Nat) : Bool := n == 16

/-- The register window is 128 bytes (09, section 9.1). -/
def isWindowOffset (n : Nat) : Bool := n < 128

/-- An access is of whole bytes (R180). -/
def isAccessWidth (bits : Nat) : Bool := 0 < bits && bits % 8 == 0

/-- The checks on a command's operands. -/
def Instr.wellFormed : Instr → Bool
  | .registerWrite offset width _ => isWindowOffset offset && isAccessWidth width
  | .fetchReturn record => isRecordLength record.length
  | .sequenceReadReturn _ data => isStepListLength data.length
  | .setLines _ settings => isSettingsLength settings.length
  | .lineEdge _ _ order read => isOrderOf EdgeTaker.all order && read.wellFormed
  | .slotEnd _ order => isOrderOf (List.finRange 8) order.watchers && order.read.wellFormed
  | .abort _ event | .pulse _ event | .internalTick event => event.read.wellFormed
  | .powerOn | .linkReset | .linkLoss | .linkReturn | .enable _ | .softReset _ | .intEnable _
  | .submitTail _ _ | .cplHead _ | .intCauseRead | .intCoalesce _ | .fetchBegin
  | .readErrorCompletion _ | .readTimeout _ | .createRing _ _ _ _ | .deleteRing _ | .barrier _
  | .report _ | .reportWriteDone | .setChannel _ | .rearmLimit _ | .loadSequence _ _ _ _
  | .defineContext _ _ _ | .arm _ _ | .stop _ _ | .resetContext _ _
  | .releaseContext _ _ | .calibrate _ | .calEntryMeasured _ _ | .calStoreDone
  | .postBuffer _ _ _ _ _ | .setCounter _ _ _ | .setOutput _ _ _ _ _
  | .triggerTimeout _ | .flushTimer _ | .eventPulseEnd _ | .frameWriteBegin _ _ | .frameWriteEnd
  | .claimantHandedIn | .completionWriteBegin | .completionWriteDone _ | .firstUnsignalledDeadline
  | .busTransferSend | .endpointConfigurationWrite _ _ _ => true

end Sys2Proof
end

