-- ==== Sys2Proof/Safety.lean ====
section
/-!
DEFINITION. What claims are stated in: a command that its owner takes, an answer handed in, a state seen apart from its
hand-ins, and the bounds every state of a sound run keeps.
-/

namespace Sys2Proof.Machine

open Sys2Proof

/-- The device is ONLINE, `cmd` is the next command of ring `r` that its owner takes, and `p` is its pending entry
(R14, R15, log 5). -/
def Taken (s : State) (r : RingId) (cmd : Command) (p : PendingEntry) : Prop :=
  s.link.device = .online ∧ s.dispatchedFrom r = some ⟨p.age, r, cmd⟩ ∧ s.entry? p.age = some p

/-- The completion record of an answer to the pending entry `p`, handed in at an instant (R21). -/
def completionOf (p : PendingEntry) (a : Answer) (now : Time) : Completion :=
  ⟨a.status, p.ring, p.context, p.tag, p.subHead, a.w0, a.w1, a.w2, (a.stamp.getD now).setWidth 48⟩

/-- From `s` to `t` the pending command `p` is answered (R16, R20, R23). With room in the backlog and nobody waiting,
its completion is the next to join and its entry is freed; only BARRIERs that waited may be answered behind it. Otherwise
it waits behind the others with its entry held. -/
def Answered (s t : State) (p : PendingEntry) (a : Answer) : Prop :=
  if s.cpl.backlog.length < 32 ∧ s.cpl.claimants = [] then
    (∃ more, t.cpl.backlog = s.cpl.backlog ++ completionOf p a s.timeBase :: more ∧
      ∀ m ∈ more, m.status = .command .ok) ∧
    (∀ e ∈ t.intake.table, e.age ≠ p.age) ∧
    (∀ e ∈ s.intake.table, e.age ≠ p.age → e.age ∉ s.intake.barriers → e ∈ t.intake.table)
  else
    t.cpl.backlog = s.cpl.backlog ∧ t.cpl.claimants = s.cpl.claimants ++ [.command p.age a] ∧
      t.intake.table = s.intake.table

/-- A state but for what handing in changes: the pending entries, the waiting BARRIERs, the backlog and the claimants,
and whether a CALIBRATE is still in flight (R15, R20, R23, R130). Equal states apart are equal in everything else. -/
def State.apart (s : State) : State :=
  { s with
    intake := { s.intake with table := [], barriers := [] }
    cpl := { s.cpl with backlog := [], claimants := [] }
    conv := { s.conv with cal := { s.conv.cal with entry := none } } }

/-- The command `i`, taken with its entry `p`, completes at once with answer `a` and leaves `u`, but for the hand-in. -/
def Completes (s : State) (i : Instr) (p : PendingEntry) (a : Answer) (u : State) : Prop :=
  ∃ t, exec i s = .next t ∧ Answered s t p a ∧ t.apart = u.apart

/-- The bytes of a structure from an offset hold a field, least significant byte first (R196). -/
def FieldAt (bytes : List Byte) (offset : Nat) {w : Nat} (length : Nat) (v : BitVec w) : Prop :=
  ∀ i < length, bytes[offset + i]? = some (v.extractLsb' (8 * i) 8)

/-- The BARRIERs that wait for the pending command `p` alone: entries of its ring with no other earlier entry of the
ring before them (R23). -/
def barriersBehind (s : State) (p : PendingEntry) : List Nat :=
  s.intake.barriers.filter fun b =>
    (s.intake.table.any fun e => e.age == b && e.ring == p.ring && b != p.age) &&
      s.intake.table.all fun e => e.ring != p.ring || b ≤ e.age || e.age == p.age

/-- The claims of those BARRIERs, each answered OK with zero words (R23). -/
def barrierClaims (s : State) (p : PendingEntry) : List Claim :=
  (barriersBehind s p).map fun b => .command b (answer .ok 0 0 0)

/-- The completion of `p` with answer `a` has joined the backlog and its entry is free; the BARRIERs behind it are about
to be answered, and a CALIBRATE so answered is in flight no longer (R15, R16, R23, R130). Nothing else changes. -/
def answeredBy (s : State) (p : PendingEntry) (a : Answer) : State :=
  { s with
    intake := { s.intake with
      table := s.intake.table.filter fun e => e.age != p.age
      barriers := s.intake.barriers.filter fun b => !(barriersBehind s p).contains b }
    cpl := { s.cpl with backlog := s.cpl.backlog ++ [completionOf p a s.timeBase] }
    conv := { s.conv with cal := { s.conv.cal with
      entry := if s.conv.cal.entry = some p.age then none else s.conv.cal.entry } } }

/-- Position `pos` of a sequence belongs to the step `st` (R45). -/
def PositionOf (steps : List Step) (pos : Nat) (st : Step) : Prop :=
  ∃ before behind, steps = before ++ st :: behind ∧ (before.map fun e => e.reps).sum ≤ pos ∧
    pos < (before.map fun e => e.reps).sum + st.reps

/-- What a position of the step `st` converts: an analog input by its channel's entry, with the entry's gain for the gain
code 15; or a pseudo-input, read now: the line snapshot, or the low 16 bits of a counter (R29, R31). -/
def inputOf (s : State) (st : Step) : SlotInput :=
  let ch := s.chan (Fin.ofNat 32 st.input)
  if st.input < 32 then
    .analog (Fin.ofNat 32 st.input) ch.mode (if st.gain = 15 then ch.gain else st.gain) ch.range
  else if st.input = 32 then .digital (BitVec.ofFnLE fun l : Fin 16 => s.lineLevel l)
  else .digital (BitVec.ofNat 16 (s.counter (if st.input = 33 then 0 else 1)).count.toNat)

/-- The slot of a position of the step `st` that begins at an instant: 2 µs for a pseudo-input, and 2 µs × (1 + settle)
for an analog input (R115). -/
def slotOf (s : State) (st : Step) (pos : Nat) (start : Time) : Slot :=
  ⟨pos, start, start + BitVec.ofNat 64 (if st.input < 32 then 20 * (1 + st.settle) else 20), inputOf s st⟩

/-- From `s` an event leads to `t`, with its readings taken as its own order has them. This is `t` with each reading that
the event makes taken at the moment given: before every change of the event, or after them all (R31, R163, R172; log 29).
The readings are the pseudo-input of a slot that begins in the event, and the line snapshot of a scan that begins in it,
whose own SCAN_START pulse it never shows. Where the tick that brings the slot follows the start of its own run, which
clears the counters, the count is never read before that: the first it can show is 0 (R108, R172). -/
def readInOrder (read : ReadOrder) (s t : State) : State :=
  let level (moments : List Moment) (between : Half) (l : Fin 16) : Bool :=
    match moments[l.val]? with
    | some .before => s.lineLevel l
    | some .after => t.lineLevel l
    | some .between | none => between.getLsbD l.val
  let startedFirst (c : CtxId) : Prop := (s.ctx c).state = .armed ∧ (t.ctx c).state = .running ∧
    (s.ctx c).pacing.tick = .free ∧ (t.ctx c).definition.clearCounters = true
  let pseudo (c : CtxId) (input : Nat) (between : Half) : Half :=
    let k : Fin 2 := if input = 33 then 0 else 1
    if input = 32 then BitVec.ofFnLE (level read.lines between)
    else
      match read.count with
      | .before => if startedFirst c then 0 else BitVec.ofNat 16 (s.counter k).count.toNat
      | .between => between
      | .after => BitVec.ofNat 16 (t.counter k).count.toNat
  let first (c : CtxId) (f : Frame) : Half := BitVec.ofFnLE fun l : Fin 16 =>
    if (t.line l).mode = .event c .scanStart then f.lines.getLsbD l.val
    else level (read.scans.getD c.val []) f.lines l
  { t with
    ctxs := Vector.ofFn fun c : Fin 8 =>
      let y := t.ctx c
      if (s.ctx c).cap.store.any (fun f => f.cond == .filling) then y
      else { y with cap := { y.cap with
        store := y.cap.store.map fun f => if f.cond = .filling then { f with lines := first c f } else f } }
    conv := { t.conv with
      holder :=
        match t.conv.holder with
        | .context g =>
          match g.slot.input with
          | .digital value =>
            if s.conv.holder = .context g then .context g
            else .context { g with slot := { g.slot with
              input := .digital (pseudo g.ctx ((t.ctx g.ctx).stepOf g.slot.pos).input value) } }
          | .analog _ _ _ _ => .context g
        | .none => .none
        | .calibration => .calibration } }

/-- The state every reset leaves that keeps the correction table, with the Host Link at its power-on values (R183, R186).
The queue, the levels at the inputs, the copies and what the host last read are no part of the reset. -/
def freshAfter (s : State) : State :=
  { State.reset with
    pending := s.pending
    hostRead := s.hostRead
    lines := { LineUnit.reset with
      lines := Vector.ofFn fun l : Fin 16 => ⟨.input, s.lines.pins.getLsbD l.val, none⟩
      pins := s.lines.pins }
    conv := { Conversion.reset with table := s.conv.table, source := s.conv.source, nv := s.conv.nv } }

/-- A nonvolatile copy is valid (R125, R128, log 9). -/
def CopyValid (n : NvCopy) : Prop :=
  n.intact = true ∧ ∀ e ∈ n.entries.toList, -2048 ≤ e.offset ∧ e.offset ≤ 2047 ∧ 61440 ≤ e.scale ∧ e.scale ≤ 69632

/-- An interrupt message of a cause is sent: INT_CAUSE and the coalescing state change, and the message stands in
class 1 if the endpoint's configuration enables messages (R192). -/
def messageOf (h : HostLink) (cause : IntCause) : HostLink :=
  { h with
    regs := { h.regs with intCause := cause }
    unsignalled := 0
    deadline := none
    bus := { h.bus with
      class1 := if h.endpoint.messages then h.bus.class1 ++ [.message cause] else h.bus.class1 } }

/-- Class 1 without the messages that wait in it: completion records only (R193). -/
def withoutMessages (class1 : List Class1) : List Class1 :=
  class1.filter fun t =>
    match t with
    | .record _ _ => true
    | .message _ => false

/-- An output takes a run event of a context: an update that waits for it is applied (R177). -/
def outputAfter (o : Output) (event : RunEvent) (c : CtxId) : Output :=
  match o.update with
  | some d => if d.event = event ∧ d.ctx = c then ⟨d.code, none⟩ else o
  | none => o

/-- The claim of an output's update that a run event applies: OK, with the output, the code applied and the code before,
and the time of the event (R176, R177). -/
def outputClaim (n : Fin 2) (o : Output) (event : RunEvent) (c : CtxId) (now : Time) : List Claim :=
  match o.update with
  | some d =>
    if d.event = event ∧ d.ctx = c then
      [.command d.entry ⟨.command .ok, BitVec.ofNat 32 n.val, d.code.setWidth 32, o.code.setWidth 32, some now⟩]
    else []
  | none => []

/-- The claims of the updates a run event applies: output 0's before output 1's (R177). -/
def runEventClaims (s : State) (event : RunEvent) (c : CtxId) : List Claim :=
  outputClaim 0 (s.out 0) event c s.timeBase ++ outputClaim 1 (s.out 1) event c s.timeBase

/-- A context's start trigger taken, before the updates it applies are answered (R71, R98, R110, R172, R177). -/
def startedBy (s : State) (c : CtxId) : State :=
  let x := s.ctx c
  let d := x.definition
  let fromTrigger : Bool :=
    match d.source with
    | .internal _ => d.depth == 0 || d.start == .immediate
    | .line _ _ | .soft => false
  let h := BitVec.ofNat 32 x.cap.store.length
  { s with
    ctxs := s.ctxs.set c.val { x with
      state := .running
      run := { x.run with numbered := h, nextScan := h }
      pacing := { x.pacing with
        deadline := none
        watcher := if d.stop = .none then .none else .stop
        phase := .run
        origin := if fromTrigger then s.timeBase else x.pacing.origin
        ticks := if fromTrigger then 0 else x.pacing.ticks }
      cap := { x.cap with store := x.cap.store.mapIdx fun i f => { f with scan := some (BitVec.ofNat 32 i) } } }
    lines := { s.lines with
      counters := if d.clearCounters then s.lines.counters.map fun k => { k with count := 0 } else s.lines.counters }
    outs := s.outs.map fun o => outputAfter o .runStart c }

/-- A pacing record at the end of pacing (R114). -/
def pacingOver (p : Pacing) : Pacing :=
  { p with
    phase := .off
    watcher := .none
    deadline := none
    countReached := false
    nextPos := 0
    tick := if p.tick = .latched then .free else p.tick }

/-- The store without the record of the scan in progress (R141). -/
def withoutFilling (store : List Frame) : List Frame := store.filter fun f => f.cond != .filling

/-- A queue on the return list: the open buffer due ABORTED, the others UNUSED (R156, R158). -/
def returned (queue : List Buffer) : List ReturnItem :=
  queue.map fun b => .buffer { b with due := some (if b.opened then .aborted else .unused) }

/-- A context in its fault end: pacing over, the scan in progress discarded, the fault limit set (R85, R155). -/
def faultEnded (x : Ctx) (reason : EndReason) : Ctx :=
  { x with
    state := .stopping
    pacing := pacingOver x.pacing
    run := { x.run with
      endReason := some reason
      discarded := if x.cap.store.any (fun f => f.cond == .filling) then x.run.discarded + 1 else x.run.discarded }
    cap := { x.cap with store := withoutFilling x.cap.store, faultLimit := some x.cap.queue.length } }

/-- The tables of the command path hold no more than the part has room for (R15, R20). -/
structure CommandBounds (s : State) : Prop where
  backlog : s.cpl.backlog.length ≤ 32
  table : s.intake.table.length ≤ 32

/-- The registers of the Host Link hold legal values (R181, R182, R191). -/
structure RegisterBounds (s : State) : Prop where
  unsignalled : s.link.unsignalled ≤ 64
  count : 1 ≤ s.link.regs.intCount.toNat ∧ s.link.regs.intCount.toNat ≤ 64
  check : s.link.regs.configError = false → s.link.regs.check = 0
  checkRange : s.link.regs.check ≤ 6

/-- The contexts hold no more than the part has to give (R47, R137, R142). -/
structure ContextBounds (s : State) : Prop where
  slots : (s.ctxs.toList.map fun x => x.slots).sum ≤ 256
  quotas : (s.ctxs.toList.map fun x => x.cap.quota).sum ≤ 64
  queues : ∀ c : CtxId, (s.ctx c).cap.queue.length ≤ 16

end Sys2Proof.Machine
end

