-- ==== Sys2Proof/Certificates/Slice0/Obligations.lean ====
section
/-!
DEFINITION. The statements about the SQ-832, each with the rules of spec/ it rests on. Every equation of a next state
says what the command changes and, by the record update, that it changes nothing else; `Completes` says the same but
for the hand-in of the command's own completion.
-/

open Sys2Proof Sys2Proof.Machine

/-! ### The queue and the resets -/

/-- The command at the front of the queue is done on the state with the queue's rest. With an empty queue the part idles
and its time base rises by one (R94). The queue is the model's (log 1), and so is that an empty one stands for one count
(log 2). -/
def Obligations.StepDoesTheFrontCommandOrCountsTime : Prop :=
  (∀ (c : Instr) (s : State), step { s with pending := c :: s.pending } = exec c s) ∧
  (∀ s : State, s.pending = [] → step s = .next { s with timeBase := s.timeBase + 1 })

/-- The values power-on gives the registers, rings, channels, contexts, converter, lines, counters and outputs. -/
def Obligations.PowerOnValues : Prop :=
  let s := State.reset
  s.timeBase = 0 ∧ s.link.device = .offline ∧ s.link.unsignalled = 0 ∧ s.link.deadline = none ∧
  s.link.regs.intEnable = false ∧ s.link.regs.configError = false ∧ s.link.regs.check = 0 ∧
  s.link.regs.intCause = .none ∧ s.link.regs.adminBase = 0 ∧ s.link.regs.adminSize = 0 ∧
  s.link.regs.cplBase = 0 ∧ s.link.regs.cplSize = 0 ∧ s.link.regs.cplHead = 0 ∧ s.link.regs.dmaLimit = 0 ∧
  s.link.regs.intCount = 1 ∧ s.link.regs.intTime = 0 ∧ s.link.bus.lastServed = 7 ∧
  s.link.endpoint.busMaster = false ∧ s.link.endpoint.messages = false ∧
  (∀ r : RingId, (s.ring r).state = .absent ∧ (s.ring r).head = 0 ∧ (s.ring r).tail = 0 ∧ (s.ring r).weight = 0) ∧
  s.intake.current = none ∧ s.intake.fetch = none ∧ s.intake.table = [] ∧
  s.cpl.tail = 0 ∧ s.cpl.head = 0 ∧ s.cpl.phase = true ∧ s.cpl.backlog = [] ∧ s.cpl.claimants = [] ∧
  (∀ n : ChanId, s.chan n = ⟨.single, 0, .bipolar, false, 0, 65535, false, .unknown, true⟩) ∧
  (∀ c : CtxId, (s.ctx c).state = .unbound ∧ (s.ctx c).defn = none ∧ (s.ctx c).slots = 0 ∧ (s.ctx c).steps = [] ∧
    (s.ctx c).run.numbered = 0 ∧ (s.ctx c).run.delivered = 0 ∧ (s.ctx c).run.dropped = 0 ∧
    (s.ctx c).run.discarded = 0 ∧ (s.ctx c).run.slips = 0 ∧ (s.ctx c).run.historyDelivered = 0 ∧
    (s.ctx c).run.nextScan = 0 ∧ (s.ctx c).run.endReason = none ∧ (s.ctx c).run.armEntry = none ∧
    (s.ctx c).pacing.phase = .off ∧ (s.ctx c).pacing.origin = 0 ∧ (s.ctx c).pacing.nextPos = 0 ∧
    (s.ctx c).pacing.tick = .free ∧ (s.ctx c).pacing.countReached = false ∧ (s.ctx c).pacing.watcher = .none ∧
    (s.ctx c).pacing.deadline = none ∧ (s.ctx c).cap = ⟨0, [], [], [], false, none, none, none⟩) ∧
  s.conv.holder = .none ∧ s.conv.lastGranted = none ∧ s.conv.calRequest = false ∧ s.conv.cal.phase = .idle ∧
  (∀ l : LineId, (s.line l).mode = .input ∧ (s.line l).pulseEnd = none) ∧
  (∀ k : Fin 2, s.counter k = ⟨none, 0⟩) ∧ (∀ o : Fin 2, s.out o = ⟨32768, none⟩)

/-- POWER_ON leaves every block in its power-on state and loads the live table from the copies by the four rows of
R129. What the copies hold when the board is made is log 8. The model's own choices in the state that is left: an
operating link (log 12), the kept input levels (log 7), the next entry number 0 (log 16), and ring bases and sizes, the
message address and what the host last read (log 18). -/
def Obligations.PowerOnLoadsTheNewerCopy : Prop :=
  ∀ s : State, ∃ (table : Vector CorrEntry 16) (source : TableSource),
    exec .powerOn s = .next { freshAfter s with
      conv := { Conversion.reset with table := table, source := source, nv := s.conv.nv } } ∧
    (CopyValid s.conv.nv[0] → ¬CopyValid s.conv.nv[1] →
      table = s.conv.nv[0].entries ∧ source = s.conv.nv[0].kind.source) ∧
    (¬CopyValid s.conv.nv[0] → CopyValid s.conv.nv[1] →
      table = s.conv.nv[1].entries ∧ source = s.conv.nv[1].kind.source) ∧
    (CopyValid s.conv.nv[0] → CopyValid s.conv.nv[1] →
      (s.conv.nv[1].generation.toNat ≤ s.conv.nv[0].generation.toNat →
        table = s.conv.nv[0].entries ∧ source = s.conv.nv[0].kind.source) ∧
      (s.conv.nv[0].generation.toNat < s.conv.nv[1].generation.toNat →
        table = s.conv.nv[1].entries ∧ source = s.conv.nv[1].kind.source)) ∧
    (¬CopyValid s.conv.nv[0] → ¬CopyValid s.conv.nv[1] →
      table = Vector.replicate 16 ⟨0, 65536⟩ ∧ source = .default)

/-- LINK_RESET and SOFT_RESET: every block is reset and the correction table, its source and the copies are kept. A soft
reset keeps also the endpoint's configuration and the registers R181 names. That the write's own INT_ENABLE bit is not
taken is log 20. The model's own choices in the state that is left: an operating link after LINK_RESET (log 12), the kept
input levels (log 7), the next entry number 0 (log 16), and ring bases and sizes, the message address and what the host
last read (log 18). -/
def Obligations.ResetsKeepTheCorrectionTable : Prop :=
  ∀ (s : State) (intEnable : Bool),
    exec .linkReset s = .next (freshAfter s) ∧
    (s.link.operating = true → s.link.device ≠ .offline →
      exec (.softReset intEnable) s = .next { freshAfter s with
        link := { HostLink.reset with
          endpoint := s.link.endpoint
          regs := { Registers.reset with
            intEnable := s.link.regs.intEnable
            adminBase := s.link.regs.adminBase
            adminSize := s.link.regs.adminSize
            cplBase := s.link.regs.cplBase
            cplSize := s.link.regs.cplSize
            dmaLimit := s.link.regs.dmaLimit
            intCount := s.link.regs.intCount
            intTime := s.link.regs.intTime } } })

/-! ### The link and the endpoint -/

/-- LINK_LOSS: an ONLINE device enters FAILED and keeps what every block holds; an OFFLINE or FAILED one keeps its
state. LINK_RETURN: the device keeps its state, and where the loss made it FAILED the message of R194 is sent if
INT_ENABLE is 1. What becomes of class 1 is log 19. ENDPOINT_CONFIGURATION_WRITE sets the permission to act as bus
master, the message enable and the message address, and nothing else. That it needs an operating link is log 12. -/
def Obligations.LinkEventsAndEndpointConfiguration : Prop :=
  ∀ s : State,
    (s.link.operating = true → s.link.device = .online →
      exec .linkLoss s = .next { s with link := { s.link with
        device := .failed, operating := false, failedOwed := true
        bus := { s.link.bus with class1 := [], busy := false } } }) ∧
    (s.link.operating = true → s.link.device ≠ .online →
      exec .linkLoss s = .next { s with link := { s.link with
        operating := false, bus := { s.link.bus with busy := false } } }) ∧
    (s.link.operating = false → s.link.device = .failed → s.link.failedOwed = true → s.link.regs.intEnable = true →
      exec .linkReturn s = .next { s with link := { s.link with
        operating := true, failedOwed := false
        regs := { s.link.regs with intCause := .failed }
        bus := { s.link.bus with
          class1 := if s.link.endpoint.messages then s.link.bus.class1 ++ [.message .failed]
            else s.link.bus.class1 } } }) ∧
    (s.link.operating = false →
      ¬(s.link.device = .failed ∧ s.link.failedOwed = true ∧ s.link.regs.intEnable = true) →
      exec .linkReturn s = .next { s with link := { s.link with operating := true, failedOwed := false } }) ∧
    (∀ (busMaster messages : Bool) (address : Addr), s.link.operating = true →
      exec (.endpointConfigurationWrite busMaster messages address) s =
        .next { s with link := { s.link with endpoint := ⟨busMaster, messages, address⟩ } })

/-- While the device is not ONLINE its blocks stand still: a command in front of its owner, a tick, a slot's end, a
timer, a frame write, a claimant, a completion, a fetch and a calibration step change nothing. A read that ends is only
forgotten, and a completion record that has been sent only leaves the link. That a read's timeout brings the time base to
its instant is log 3. -/
def Obligations.NothingActsUnlessOnline : Prop :=
  ∀ s : State, s.link.device ≠ .online →
    let still (i : Instr) : Prop := exec i s = .next s
    (∀ ring weight size base, still (.createRing ring weight size base)) ∧ (∀ ring, still (.deleteRing ring)) ∧
    (∀ src, still (.barrier src)) ∧ (∀ address, still (.report address)) ∧
    (∀ p, still (.setChannel p)) ∧ (∀ channel, still (.rearmLimit channel)) ∧
    (∀ src c count address, still (.loadSequence src c count address)) ∧
    (∀ src c p, still (.defineContext src c p)) ∧
    (∀ src c read, still (.arm src c) ∧ still (.stop src c) ∧ still (.abort src ⟨c, read⟩) ∧
      still (.resetContext src c) ∧ still (.releaseContext src c) ∧ still (.pulse src ⟨c, read⟩)) ∧
    (∀ store, still (.calibrate store)) ∧
    (∀ src c length tag address, still (.postBuffer src c length tag address)) ∧
    (∀ flags settings, still (.setLines flags settings)) ∧
    (∀ counter source edge, still (.setCounter counter source edge)) ∧
    (∀ src c output kind code, still (.setOutput src c output kind code)) ∧
    (∀ c read, still (.internalTick ⟨c, read⟩) ∧ still (.triggerTimeout c) ∧ still (.flushTimer c)) ∧
    (∀ raw order read, still (.slotEnd raw ⟨order, read⟩)) ∧
    (∀ c staging, still (.frameWriteBegin c staging)) ∧ still .frameWriteEnd ∧
    still .claimantHandedIn ∧ still .completionWriteBegin ∧ still .fetchBegin ∧ still .reportWriteDone ∧
    still .firstUnsignalledDeadline ∧ (∀ low high, still (.calEntryMeasured low high)) ∧ still .calStoreDone ∧
    (∀ (k : Nat) (q : OutstandingRead), s.link.bus.outstanding[k]? = some q →
      let due := q.sentAt + 500000
      let forgotten (t : State) : State := { t with link := { t.link with bus := { t.link.bus with
        outstanding := t.link.bus.outstanding.eraseIdx k } } }
      (s.link.operating = true → exec (.readErrorCompletion k) s = .next (forgotten s)) ∧
      exec (.readTimeout k) s = .next (forgotten { s with
        timeBase := if due.toNat ≤ s.timeBase.toNat then s.timeBase else due }) ∧
      (∀ c load data, q.request.kind = .steps c load → data.length = q.request.length → s.link.operating = true →
        exec (.sequenceReadReturn k data) s = .next (forgotten s)) ∧
      (∀ record, s.link.bus.outstanding.findIdx? (fun r => r.request.kind == .fetch) = some k →
        record.length = 64 → s.link.operating = true → exec (.fetchReturn record) s = .next (forgotten s))) ∧
    (∀ first a bytes, s.link.bus.busy = true → s.link.bus.onLink = some (.record a bytes) →
      exec (.completionWriteDone first) s =
        .next { s with link := { s.link with bus := { s.link.bus with busy := false } } })

/-! ### The register window -/

/-- The six enable checks of R182, as propositions in order. That a failed enable writes INT_ENABLE is log 20. A write of
INT_ENABLE 0 leaves no message waiting in class 1 (log 32). -/
def Obligations.EnableMakesTheChecksInOrder : Prop :=
  ∀ (s : State) (intEnable : Bool),
    s.link.operating = true → s.link.device = .offline → 1 ≤ s.link.regs.intCount.toNat →
    let r := s.link.regs
    let checks : List Bool :=
      [ [4, 8, 16, 32, 64, 128, 256].contains r.adminSize.toNat,
        r.adminBase.toNat % 64 == 0,
        r.adminBase.toNat + 64 * r.adminSize.toNat - 1 < r.dmaLimit.toNat,
        [16, 32, 64, 128, 256, 512, 1024, 2048, 4096].contains r.cplSize.toNat,
        r.cplBase.toNat % 64 == 0,
        r.cplBase.toNat + 32 * r.cplSize.toNat - 1 < r.dmaLimit.toNat ]
    let bus : Bus := { s.link.bus with
      class1 := if intEnable then s.link.bus.class1 else withoutMessages s.link.bus.class1 }
    match checks.findIdx? (· == false) with
    | some k =>
      exec (.enable intEnable) s = .next { s with link := { s.link with
        regs := { r with configError := true, check := k + 1, intEnable := intEnable }
        bus := bus } }
    | none =>
      exec (.enable intEnable) s = .next { s with
        link := { s.link with
          device := .online, unsignalled := 0, deadline := none
          regs := { r with configError := false, check := 0, cplHead := 0, intEnable := intEnable }
          bus := bus }
        intake := { s.intake with
          rings := s.intake.rings.set 0 ⟨.active, r.adminBase, r.adminSize.toNat, 0, 0, 0⟩ }
        cpl := { s.cpl with base := r.cplBase, size := r.cplSize.toNat, head := 0, tail := 0, phase := true } }

/-- INT_ENABLE, and every CONTROL write that leaves the device state, sets the bit. Cleared, no message waits in class 1
any more (R193; that those waiting are dropped is log 32). When the bit changes from 0 to 1 on an ONLINE device it makes
the tests of R193. -/
def Obligations.IntEnableMakesTheTests : Prop :=
  ∀ (s : State) (value : Bool), s.link.operating = true →
    let h : HostLink := { s.link with
      regs := { s.link.regs with intEnable := value }
      bus := { s.link.bus with
        class1 := if value then s.link.bus.class1 else withoutMessages s.link.bus.class1 } }
    let tests := value = true ∧ s.link.regs.intEnable = false ∧ s.link.device = .online
    let count := s.link.regs.intCount.toNat ≤ s.link.unsignalled
    let late := ∃ d, s.link.deadline = some d ∧ d.toNat ≤ s.timeBase.toNat
    (tests → count → exec (.intEnable value) s = .next { s with link := messageOf h .count }) ∧
    (tests → ¬count → late → exec (.intEnable value) s = .next { s with link := messageOf h .time }) ∧
    (¬(tests ∧ (count ∨ late)) → exec (.intEnable value) s = .next { s with link := h }) ∧
    (s.link.device ≠ .offline → exec (.enable value) s = exec (.intEnable value) s) ∧
    (s.link.device = .offline → exec (.softReset value) s = exec (.intEnable value) s)

/-- R3 whole: a write of SUBMIT_TAILn sets the tail of an ACTIVE ring, or halts it with INDEX_ERROR, or is discarded. -/
def Obligations.SubmitTailByRingState : Prop :=
  ∀ (s : State) (n : RingId) (value : Word), s.link.operating = true →
    let r := s.ring n
    let halted : State := { s with intake := { s.intake with
      rings := s.intake.rings.set n.val { r with state := .halted }
      turnOver := s.intake.turnOver || s.intake.current == some n } }
    (s.link.device = .online → r.state = .active → value.toNat < r.size →
      exec (.submitTail n value) s = .next (s.setRing n { r with tail := value.toNat }) ∧
      ({ r with tail := value.toNat } : Ring).unfetched = (value.toNat + r.size - r.head) % r.size ∧
      (value.toNat = r.tail → exec (.submitTail n value) s = .next s)) ∧
    (s.link.device = .online → r.state = .active → r.size ≤ value.toNat →
      (s.cpl.backlog.length < 32 ∧ s.cpl.claimants = [] →
        exec (.submitTail n value) s = .next { halted with cpl := { s.cpl with
          claimants := []
          backlog := s.cpl.backlog ++
            [⟨.notice .indexError, n, 0, 0, r.head, value, word r.size, 0, s.timeBase.setWidth 48⟩] } }) ∧
      (¬(s.cpl.backlog.length < 32 ∧ s.cpl.claimants = []) →
        exec (.submitTail n value) s = .next { halted with cpl := { s.cpl with
          claimants := s.cpl.claimants ++ [.notice .indexError n r.head value (word r.size)] } })) ∧
    (r.state = .absent ∨ r.state = .halted ∨ s.link.device ≠ .online →
      exec (.submitTail n value) s = .next s) ∧
    (s.readRegister (0x38 + 4 * n.val) = if r.state = .absent then 0 else word r.tail)

/-- R19 whole: the write of CPL_HEAD, by device state and range. -/
def Obligations.CplHeadGivesTheNewHead : Prop :=
  ∀ (s : State) (value : Word), s.link.operating = true →
    let kept : HostLink := { s.link with regs := { s.link.regs with cplHead := value } }
    (s.link.device = .online → value.toNat < s.cpl.size →
      exec (.cplHead value) s = .next { s with link := kept, cpl := { s.cpl with head := value.toNat } } ∧
      (((s.cpl.tail + 1) % s.cpl.size ≠ value.toNat) →
        ({ s.cpl with head := value.toNat } : CompletionWriter).full = false)) ∧
    (s.link.device = .online → s.cpl.size ≤ value.toNat → exec (.cplHead value) s = .next s) ∧
    (s.link.device ≠ .online → exec (.cplHead value) s = .next { s with link := kept })

/-- What a read of the register window returns: the fields of each register at its offset, 32 bits at multiples of 4 and
64 bits at the three address registers, and an unsupported request otherwise. INT_CAUSE_READ gives the host INT_CAUSE and
sets it to NONE; that the value is held is log 18. The revision is a free value (log 10). That the low half of a 64-bit
register lies at the lower offset is the model's choice (log 34). -/
def Obligations.RegisterReadsByOffset : Prop :=
  ∀ s : State,
    let r := s.link.regs
    let cause : Word :=
      match r.intCause with
      | .none => 0
      | .count => 1
      | .time => 2
      | .failed => 3
    let waits (n : RingId) : Prop := (s.ring n).state = .active ∧
      ((s.ring n).tail + (s.ring n).size - (s.ring n).head) % (s.ring n).size ≠ 0
    let paused := s.link.device = .online ∧ (∃ n, waits n) ∧ (32 ≤ s.intake.table.length ∨ 24 ≤ s.cpl.backlog.length)
    (let ident := s.readRegister 0x00;
      ident.extractLsb' 20 12 = 0xE17 ∧ ident.extractLsb' 8 12 = 832 ∧ ident.extractLsb' 0 8 = Config.revision) ∧
    (∀ k, (s.readRegister 0x04).getLsbD k = true ↔
      (k = 0 ∧ s.link.device ≠ .offline) ∨ (k = 1 ∧ r.intEnable = true)) ∧
    (∀ k, (s.readRegister 0x08).getLsbD k = true ↔
      (k = 0 ∧ s.link.device = .online) ∨ (k = 1 ∧ s.link.device = .failed) ∨ (k = 2 ∧ r.configError = true) ∨
      (k = 3 ∧ paused) ∨ (k = 4 ∧ s.conv.source = .default) ∨
      (8 ≤ k ∧ k ≤ 11 ∧ r.check.testBit (k - 8) = true)) ∧
    s.readRegister 0x0C = cause ∧
    s.readRegister 0x10 = r.adminBase.extractLsb' 0 32 ∧ s.readRegister 0x14 = r.adminBase.extractLsb' 32 32 ∧
    s.readRegister 0x18 = r.adminSize ∧ s.readRegister 0x1C = r.cplSize ∧
    s.readRegister 0x20 = r.cplBase.extractLsb' 0 32 ∧ s.readRegister 0x24 = r.cplBase.extractLsb' 32 32 ∧
    s.readRegister 0x28 = r.cplHead ∧
    s.readRegister 0x2C = BitVec.ofNat 32 (65536 * r.intTime.toNat + r.intCount.toNat) ∧
    s.readRegister 0x30 = r.dmaLimit.extractLsb' 0 32 ∧ s.readRegister 0x34 = r.dmaLimit.extractLsb' 32 32 ∧
    (∀ n : RingId, s.readRegister (0x38 + 4 * n.val) =
      if (s.ring n).state = .absent then 0 else BitVec.ofNat 32 (s.ring n).tail) ∧
    (∀ offset, 0x4C ≤ offset → offset < 0x80 → s.readRegister offset = 0) ∧
    s.readWindow 0x10 64 = some r.adminBase ∧ s.readWindow 0x20 64 = some r.cplBase ∧
    s.readWindow 0x30 64 = some r.dmaLimit ∧
    (∀ offset, offset % 4 = 0 → offset < 0x80 →
      s.readWindow offset 32 = some ((s.readRegister offset).setWidth 64)) ∧
    (∀ offset width, ¬(width = 32 ∧ offset % 4 = 0 ∧ offset < 0x80) →
      ¬(width = 64 ∧ offset ∈ [0x10, 0x20, 0x30]) → s.readWindow offset width = none) ∧
    (s.link.operating = true → exec .intCauseRead s = .next { s with
      link := { s.link with regs := { r with intCause := .none } }
      hostRead := cause })

/-- INT_COALESCE: a count of 0 or above 64 discards the write whole; any other is taken, and the tests of R193 are made
on an ONLINE device with INT_ENABLE 1. -/
def Obligations.IntCoalesceMakesTheTests : Prop :=
  ∀ (s : State) (value : Word), s.link.operating = true →
    let count := value.toNat % 128
    let h : HostLink := { s.link with regs := { s.link.regs with
      intCount := BitVec.ofNat 7 count, intTime := BitVec.ofNat 16 (value.toNat / 65536) } }
    let tests := s.link.regs.intEnable = true ∧ s.link.device = .online
    let late := ∃ d, s.link.deadline = some d ∧ d.toNat ≤ s.timeBase.toNat
    (count = 0 ∨ 64 < count → exec (.intCoalesce value) s = .next s) ∧
    (1 ≤ count → count ≤ 64 →
      (tests → count ≤ s.link.unsignalled →
        exec (.intCoalesce value) s = .next { s with link := messageOf h .count }) ∧
      (tests → s.link.unsignalled < count → late →
        exec (.intCoalesce value) s = .next { s with link := messageOf h .time }) ∧
      (¬(tests ∧ (count ≤ s.link.unsignalled ∨ late)) →
        exec (.intCoalesce value) s = .next { s with link := h }))

/-- REGISTER_WRITE by offset and width: the plain registers whole or by halves, the registers that have a command of
their own, and the offsets and widths where no register changes. That the low half of a 64-bit register lies at the lower
offset is the model's choice (log 34). -/
def Obligations.RegisterWriteByOffset : Prop :=
  ∀ (s : State) (offset width : Nat) (v : BitVec 64), s.link.operating = true →
    let low : Word := v.setWidth 32
    let regs (f : Registers → Registers) : State := { s with link := { s.link with regs := f s.link.regs } }
    exec (.registerWrite 0x10 64 v) s = .next (regs fun r => { r with adminBase := v }) ∧
    exec (.registerWrite 0x20 64 v) s = .next (regs fun r => { r with cplBase := v }) ∧
    exec (.registerWrite 0x30 64 v) s = .next (regs fun r => { r with dmaLimit := v }) ∧
    (offset ∉ [0x10, 0x20, 0x30] → exec (.registerWrite offset 64 v) s = .next s) ∧
    exec (.registerWrite 0x10 32 v) s =
      .next (regs fun r => { r with adminBase := r.adminBase.extractLsb' 32 32 ++ low }) ∧
    exec (.registerWrite 0x14 32 v) s =
      .next (regs fun r => { r with adminBase := low ++ r.adminBase.extractLsb' 0 32 }) ∧
    exec (.registerWrite 0x18 32 v) s = .next (regs fun r => { r with adminSize := low }) ∧
    exec (.registerWrite 0x1C 32 v) s = .next (regs fun r => { r with cplSize := low }) ∧
    exec (.registerWrite 0x20 32 v) s =
      .next (regs fun r => { r with cplBase := r.cplBase.extractLsb' 32 32 ++ low }) ∧
    exec (.registerWrite 0x24 32 v) s =
      .next (regs fun r => { r with cplBase := low ++ r.cplBase.extractLsb' 0 32 }) ∧
    exec (.registerWrite 0x30 32 v) s =
      .next (regs fun r => { r with dmaLimit := r.dmaLimit.extractLsb' 32 32 ++ low }) ∧
    exec (.registerWrite 0x34 32 v) s =
      .next (regs fun r => { r with dmaLimit := low ++ r.dmaLimit.extractLsb' 0 32 }) ∧
    exec (.registerWrite 0x28 32 v) s = exec (.cplHead low) s ∧
    exec (.registerWrite 0x2C 32 v) s = exec (.intCoalesce low) s ∧
    (∀ n : RingId, exec (.registerWrite (0x38 + 4 * n.val) 32 v) s = exec (.submitTail n low) s) ∧
    (v.getLsbD 0 = true → exec (.registerWrite 0x04 32 v) s = exec (.enable (v.getLsbD 1)) s) ∧
    (v.getLsbD 0 = false → exec (.registerWrite 0x04 32 v) s = exec (.softReset (v.getLsbD 1)) s) ∧
    (offset ∈ [0x00, 0x08, 0x0C] ∨ 0x4C ≤ offset ∨ offset % 4 ≠ 0 →
      exec (.registerWrite offset 32 v) s = .next s) ∧
    (width ≠ 32 → width ≠ 64 → exec (.registerWrite offset width v) s = .next s)

/-! ### Fetches and host reads -/

/-- FETCH_BEGIN: with the conditions of R7 the arbiter of R10 and R11 picks a ring, an entry is reserved and the read
of its head's record is asked for; with no ring waiting, or a condition missing, nothing happens. The
numbers of entries are log 16. -/
def Obligations.FetchBeginServesTheArbitersRing : Prop :=
  ∀ s : State,
    let allowed := s.link.device = .online ∧ s.intake.table.length < 32 ∧ s.cpl.backlog.length < 24 ∧
      s.intake.fetch = none
    let waits (r : RingId) : Prop := (s.ring r).state = .active ∧ (s.ring r).unfetched ≠ 0
    let begun (r : RingId) (current : Option RingId) (taken : Nat) (ended : Bool) : State := { s with
      intake := { s.intake with
        current := current, taken := taken, turnOver := ended
        fetch := some ⟨r, s.intake.nextAge⟩
        table := s.intake.table ++ [⟨s.intake.nextAge, r, false, 0, 0, 0, 0⟩]
        nextAge := s.intake.nextAge + 1 }
      link := { s.link with bus := { s.link.bus with
        class2 := s.link.bus.class2 ++
          [⟨.fetch, (s.ring r).base + BitVec.ofNat 64 (64 * (s.ring r).head), 64⟩] } } }
    let goesOn (r : RingId) : Prop := s.intake.current = some r ∧ waits r ∧
      s.intake.taken < (s.ring r).weight ∧ s.intake.turnOver = false
    let after (k : Nat) : RingId :=
      Fin.ofNat 5 (((match s.intake.current with
        | some c => c.val
        | none => 0) + k) % 4 + 1)
    (allowed → waits 0 →
      exec .fetchBegin s = .next (begun 0 s.intake.current s.intake.taken s.intake.turnOver)) ∧
    (allowed → ¬waits 0 → ∀ r, goesOn r →
      exec .fetchBegin s = .next (begun r (some r) (s.intake.taken + 1) false)) ∧
    (allowed → ¬waits 0 → (∀ r, ¬goesOn r) → ∀ k < 4, waits (after k) → (∀ j < k, ¬waits (after j)) →
      exec .fetchBegin s = .next (begun (after k) (some (after k)) 1 false)) ∧
    (allowed → (∀ r, ¬waits r) → exec .fetchBegin s = .next s) ∧
    (¬allowed → exec .fetchBegin s = .next s)

/-- The common checks of R12 in order, on any record, with the opcodes, the context column and the fields and bits that
R197 assigns to each written out. That address plus length does not wrap is log 21. -/
def Obligations.CommonChecksInOrder : Prop :=
  ∀ (ring : RingId) (limit : Addr) (record : List Byte),
    let op := byteAt record 0
    let known : List Byte :=
      [0x01, 0x02, 0x03, 0x04, 0x10, 0x11, 0x18, 0x20, 0x21, 0x22, 0x23, 0x24, 0x25, 0x28, 0x30, 0x38, 0x40, 0x41, 0x42]
    let adminOnly : List Byte := [0x01, 0x02, 0x04, 0x10, 0x11, 0x30, 0x40, 0x41]
    let inContext : List Byte := [0x18, 0x20, 0x21, 0x22, 0x23, 0x24, 0x25, 0x28, 0x38, 0x42]
    let fields : List (Nat × Nat) :=
      match op.toNat with
      | 0x01 => [(8, 9), (12, 23)]
      | 0x02 => [(8, 8)]
      | 0x04 => [(16, 23)]
      | 0x10 => [(8, 11), (16, 19)]
      | 0x11 => [(8, 8)]
      | 0x18 => [(8, 9), (16, 23)]
      | 0x20 => [(8, 35)]
      | 0x38 => [(8, 23)]
      | 0x40 => [(8, 9), (16, 47)]
      | 0x41 => [(8, 10)]
      | 0x42 => [(8, 11)]
      | _ => []
    let flags (i : Nat) : Byte :=
      if op = 0x10 ∧ i = 12 then 3 else if (op = 0x20 ∧ i = 36) ∨ (op = 0x30 ∧ i = 8) then 1 else 0
    let assigned (i : Nat) : Byte :=
      if i = 0 ∨ (4 ≤ i ∧ i ≤ 7) ∨ (i = 1 ∧ op ∈ inContext) ∨ fields.any (fun f => f.1 ≤ i && i ≤ f.2) = true then 0xFF
      else flags i
    let address := (longAt record 16).toNat
    let region : Option (Nat × Nat) :=
      match op.toNat with
      | 0x01 => some (64, 64 * (wordAt record 12).toNat)
      | 0x04 => some (64, 512)
      | 0x18 => some (8, 8 * (halfAt record 8).toNat)
      | 0x38 => some (64, (wordAt record 8).toNat)
      | _ => none
    let answers (st : Status) : Prop := commonCheck ring limit record = .inl st
    (op ∉ known → answers .badOpcode) ∧
    (op ∈ known →
      (op ∈ adminOnly → ring ≠ 0 → answers .wrongRing) ∧
      (¬(op ∈ adminOnly ∧ ring ≠ 0) →
        (op ∈ inContext → 7 < (byteAt record 1).toNat → answers .badContext) ∧
        (¬(op ∈ inContext ∧ 7 < (byteAt record 1).toNat) →
          ((∃ i < 64, byteAt record i &&& ~~~(assigned i) ≠ 0) → answers .badParam) ∧
          ((∀ i < 64, byteAt record i &&& ~~~(assigned i) = 0) →
            (∀ align len, region = some (align, len) →
              (address % align ≠ 0 ∨ (limit.toNat : Int) ≤ (address : Int) + len - 1) → answers .badAddress) ∧
            ((∀ align len, region = some (align, len) →
              address % align = 0 ∧ (address : Int) + len - 1 < limit.toNat) →
              ∀ o : Opcode, o.code = op → commonCheck ring limit record = .inr (o.read record))))))

/-- The record a command is written as, field by field at the offsets of R197, and that it is read back as that command,
for every command with every operand: the checks let it through on a ring it may come from, with its region aligned and
below the limit. -/
def Obligations.RecordsReadBack : Prop :=
  ∀ (cmd : Command) (tag : Word) (ring : RingId) (limit : Addr),
    (∀ flags settings, cmd = .setLines flags settings → settings.length = 16) →
    (cmd.opcode.adminOnly = true → ring = 0) → cmd.addressOk limit = true →
    let record := cmd.record tag
    let has {w : Nat} (offset length : Nat) (v : BitVec w) : Prop := FieldAt record offset length v
    let byte' (offset : Nat) (v : Byte) : Prop := FieldAt record offset 1 v
    let opens (opcode : Byte) (ctx : Option CtxId) : Prop :=
      byte' 0 opcode ∧ byte' 1 (match ctx with
        | some c => BitVec.ofNat 8 c.val
        | none => 0)
    record.length = 64 ∧ has 4 4 tag ∧ wordAt record 4 = tag ∧ commonCheck ring limit record = .inr cmd ∧
    (match cmd with
      | .createRing n weight size base =>
        opens 0x01 none ∧ byte' 8 n ∧ byte' 9 weight ∧ has 12 4 size ∧ has 16 8 base
      | .deleteRing n => opens 0x02 none ∧ byte' 8 n
      | .barrier => opens 0x03 none
      | .report address => opens 0x04 none ∧ has 16 8 address
      | .setChannel p =>
        opens 0x10 none ∧ byte' 8 p.channel ∧ byte' 9 p.mode ∧ byte' 10 p.gain ∧ byte' 11 p.range ∧
        byte' 12 (BitVec.ofNat 8 (p.limitEnable.toNat + 2 * p.report.toNat)) ∧ has 16 2 p.low ∧ has 18 2 p.high
      | .rearmLimit channel => opens 0x11 none ∧ byte' 8 channel
      | .loadSequence c count address => opens 0x18 (some c) ∧ has 8 2 count ∧ has 16 8 address
      | .defineContext c p =>
        opens 0x20 (some c) ∧ byte' 8 p.priority ∧ byte' 9 p.mode ∧ byte' 10 p.source ∧ byte' 11 p.paceLine ∧
        byte' 12 p.paceEdge ∧ byte' 13 p.start ∧ byte' 14 p.startLine ∧ byte' 15 p.startEdge ∧ byte' 16 p.stop ∧
        byte' 17 p.stopLine ∧ byte' 18 p.stopEdge ∧ byte' 19 p.depth ∧ byte' 20 p.bufferPolicy ∧
        byte' 21 p.slipPolicy ∧ byte' 22 p.format ∧ byte' 23 p.quota ∧ has 24 4 p.period ∧ has 28 4 p.count ∧
        has 32 2 p.timeout ∧ has 34 2 p.flush ∧ byte' 36 (BitVec.ofNat 8 p.clearCounters.toNat)
      | .arm c => opens 0x21 (some c)
      | .stop c => opens 0x22 (some c)
      | .abort c => opens 0x23 (some c)
      | .resetContext c => opens 0x24 (some c)
      | .releaseContext c => opens 0x25 (some c)
      | .pulse c => opens 0x28 (some c)
      | .calibrate store => opens 0x30 none ∧ byte' 8 (BitVec.ofNat 8 store.toNat)
      | .postBuffer c length bufferTag address =>
        opens 0x38 (some c) ∧ has 8 4 length ∧ has 12 4 bufferTag ∧ has 16 8 address
      | .setLines flags settings =>
        opens 0x40 none ∧ has 8 2 flags ∧ (∀ k v, settings[k]? = some v → has (16 + 2 * k) 2 v)
      | .setCounter counter source edge =>
        opens 0x41 none ∧ byte' 8 counter ∧ byte' 9 source ∧ byte' 10 edge
      | .setOutput c output kind code =>
        opens 0x42 (some c) ∧ byte' 8 output ∧ byte' 9 kind ∧ has 10 2 code)

/-- FETCH_RETURN from an ACTIVE ring: the head advances, the entry is filled, a ring left empty ends its turn, and the
command is dispatched, or completes with the status of the check it fails. From a ring that has halted meanwhile (R4) the
record is discarded, its entry freed and the head kept. The model's own choices: the command joins the dispatched list
also while an earlier one of its ring waits there (log 5) and is checked and refused at once then (log 27), and the read
that returns is the oldest fetch outstanding (log 24). -/
def Obligations.FetchReturnTakesTheRecord : Prop :=
  (∀ (s : State) (record : List Byte) (k : Nat) (f : Fetch) (e : PendingEntry),
    record.length = 64 → s.link.device = .online → s.link.operating = true →
    s.link.bus.outstanding.findIdx? (fun r => r.request.kind == .fetch) = some k →
    s.intake.fetch = some f → s.entry? f.entry = some e →
    (s.ring f.ring).state = .active →
    let head := ((s.ring f.ring).head + 1) % (s.ring f.ring).size
    let ring : Ring := { s.ring f.ring with head := head }
    let filled : PendingEntry :=
      ⟨e.age, e.ring, true, wordAt record 4, byteAt record 0, byteAt record 1, head⟩
    let emptied : Bool := s.intake.current == some f.ring && ring.unfetched == 0
    let taken : State := { s with
      link := { s.link with bus := { s.link.bus with outstanding := s.link.bus.outstanding.eraseIdx k } }
      intake := { s.intake with
        rings := s.intake.rings.set f.ring.val ring
        fetch := none
        table := s.intake.table.map fun p =>
          if p.age = f.entry then
            ⟨p.age, p.ring, true, wordAt record 4, byteAt record 0, byteAt record 1, head⟩
          else p
        taken := if emptied then ring.weight else s.intake.taken
        turnOver := if emptied then true else s.intake.turnOver } }
    (∀ cmd, commonCheck f.ring s.link.regs.dmaLimit record = .inr cmd →
      exec (.fetchReturn record) s = .next { taken with
        intake := { taken.intake with dispatched := s.intake.dispatched ++ [⟨f.entry, f.ring, cmd⟩] } }) ∧
    (∀ st, commonCheck f.ring s.link.regs.dmaLimit record = .inl st →
      ∃ t, exec (.fetchReturn record) s = .next t ∧ Answered taken t filled (answer st 0 0 0) ∧
        t.apart = taken.apart)) ∧
  (∀ (s : State) (record : List Byte) (k : Nat) (f : Fetch),
    record.length = 64 → s.link.device = .online → s.link.operating = true →
    s.link.bus.outstanding.findIdx? (fun r => r.request.kind == .fetch) = some k →
    s.intake.fetch = some f → (s.ring f.ring).state = .halted →
    exec (.fetchReturn record) s = .next { s with
      link := { s.link with bus := { s.link.bus with outstanding := s.link.bus.outstanding.eraseIdx k } }
      intake := { s.intake with
        fetch := none
        table := s.intake.table.filter fun e => e.age != f.entry } })

/-- READ_ERROR_COMPLETION and READ_TIMEOUT of the fetch in flight: the entry is freed, the head kept, and an ACTIVE ring
halts with FETCH_ERROR and the cause, 1 or 2. A ring that has halted meanwhile (R4) gives no second notice. A timeout is
taken 50 ms after the request was sent. That the time base is brought to that instant is log 3. -/
def Obligations.FailedFetchHaltsItsRing : Prop :=
  ∀ (s : State) (k : Nat) (q : OutstandingRead) (f : Fetch) (timeout : Bool),
    s.link.bus.outstanding[k]? = some q → q.request.kind = .fetch → s.link.device = .online →
    s.link.operating = true → s.intake.fetch = some f →
    let due := q.sentAt + 500000
    let now := if timeout ∧ ¬ due.toNat ≤ s.timeBase.toNat then due else s.timeBase
    let cause : Word := if timeout then 2 else 1
    let r := s.ring f.ring
    let freed : State := { s with
      timeBase := now
      link := { s.link with bus := { s.link.bus with outstanding := s.link.bus.outstanding.eraseIdx k } }
      intake := { s.intake with fetch := none, table := s.intake.table.filter fun e => e.age != f.entry } }
    let halted : State := { freed with intake := { freed.intake with
      rings := s.intake.rings.set f.ring.val { r with state := .halted }
      turnOver := s.intake.turnOver || s.intake.current == some f.ring } }
    let goesTo (t : State) : Prop := exec (if timeout then .readTimeout k else .readErrorCompletion k) s = .next t
    (r.state = .active → s.cpl.backlog.length < 32 ∧ s.cpl.claimants = [] →
      goesTo { halted with cpl := { s.cpl with
        claimants := []
        backlog := s.cpl.backlog ++
          [⟨.notice .fetchError, f.ring, 0, 0, r.head, word r.head, cause, 0, now.setWidth 48⟩] } }) ∧
    (r.state = .active → ¬(s.cpl.backlog.length < 32 ∧ s.cpl.claimants = []) →
      goesTo { halted with cpl := { s.cpl with
        claimants := s.cpl.claimants ++ [.notice .fetchError f.ring r.head (word r.head) cause] } }) ∧
    (r.state ≠ .active → goesTo freed)

/-- The step checks of R54 in order, the reason code being the number of the first that fails; and the end of a step list
read, by its return, an error or a timeout: the load ends OK, BAD_STEP, STAGING_SHORT or FETCH_ERROR, the context goes to
READY with the steps or to DEFINED with no slots, and the LOAD_SEQUENCE is answered. The read of a load that has ended
already (R58) is only forgotten, with its data, error or timeout. That a timeout brings the time base to its instant is
log 3. -/
def Obligations.LoadEndsWithItsRead : Prop :=
  (∀ (s : State) (r : RawStep),
    let input := r.input.toNat
    let checks : List Bool :=
      [ input ≤ 34,
        r.gain.toNat ≤ 7 || r.gain.toNat == 15,
        !(input == 32 || input == 33 || input == 34) || r.gain.toNat == 15,
        r.settle.toNat ≤ 7,
        1 ≤ r.reps.toNat && r.reps.toNat ≤ 16,
        r.reserved == 0,
        (List.range 16).all fun n => !(input == n + 16 && (s.chans.toList[n]?.map fun ch => ch.mode) == some .diff) ]
    s.stepFault r = (checks.findIdx? (· == false)).map (· + 1)) ∧
  (∀ (s : State) (k : Nat) (q : OutstandingRead) (c : CtxId) (p : PendingEntry) (data : List Byte),
    s.link.bus.outstanding[k]? = some q → q.request.kind = .steps c p.age → s.link.device = .online →
    s.link.operating = true → (s.ctx c).load = some p.age → s.entry? p.age = some p →
    data.length = q.request.length →
    let x := s.ctx c
    let raw := rawStepsOf (data.length / 8) data
    let good (r : RawStep) : Prop := s.stepFault r = none
    let steps : List Step := raw.map fun r => ⟨r.input.toNat, r.gain.toNat, r.settle.toNat, r.reps.toNat⟩
    let positions := (steps.map fun st => st.reps).sum
    let framed := (16 + 2 * positions + 7) / 8 * 8
    let size := match x.definition.format with
      | .packed => 2 * positions
      | .framed => framed
    let enough := (x.definition.depth + 1) * size ≤ 512 * x.cap.quota
    let base : State := { s with link := { s.link with bus := { s.link.bus with
      outstanding := s.link.bus.outstanding.eraseIdx k } } }
    let failed (u : State) : State := u.setCtx c { x with state := .defined, slots := 0, steps := [], load := none }
    let late : State := { base with
      timeBase := if (q.sentAt + 500000).toNat ≤ s.timeBase.toNat then s.timeBase else q.sentAt + 500000 }
    ((∀ r ∈ raw, good r) → enough →
      ∃ t, exec (.sequenceReadReturn k data) s = .next t ∧
        Answered base t p (answer .ok (word positions) (word (2 * positions)) (word framed)) ∧
        t.apart = (base.setCtx c { x with state := .ready, steps := steps, load := none }).apart) ∧
    ((∀ r ∈ raw, good r) → ¬enough →
      ∃ t, exec (.sequenceReadReturn k data) s = .next t ∧
        Answered base t p (answer .stagingShort (word positions) (word size) (word (512 * x.cap.quota))) ∧
        t.apart = (failed base).apart) ∧
    (∀ i r reason, raw[i]? = some r → s.stepFault r = some reason → (∀ j < i, ∀ r', raw[j]? = some r' → good r') →
      ∃ t, exec (.sequenceReadReturn k data) s = .next t ∧
        Answered base t p (answer .badStep (word i) (word reason) 0) ∧ t.apart = (failed base).apart) ∧
    (∃ t, exec (.readErrorCompletion k) s = .next t ∧
      Answered base t p (answer .fetchError 0 1 0) ∧ t.apart = (failed base).apart) ∧
    (∃ t, exec (.readTimeout k) s = .next t ∧
      Answered late t p (answer .fetchError 0 2 0) ∧ t.apart = (failed late).apart)) ∧
  (∀ (s : State) (k : Nat) (q : OutstandingRead) (c : CtxId) (load : Nat) (data : List Byte),
    s.link.bus.outstanding[k]? = some q → q.request.kind = .steps c load → s.link.device = .online →
    s.link.operating = true → (s.ctx c).load ≠ some load → data.length = q.request.length →
    let forgotten : State := { s with link := { s.link with bus := { s.link.bus with
      outstanding := s.link.bus.outstanding.eraseIdx k } } }
    exec (.sequenceReadReturn k data) s = .next forgotten ∧
    exec (.readErrorCompletion k) s = .next forgotten ∧
    exec (.readTimeout k) s = .next { forgotten with
      timeBase := if (q.sentAt + 500000).toNat ≤ s.timeBase.toNat then s.timeBase else q.sentAt + 500000 })

/-! ### Ring commands -/

/-- CREATE_RING: the first check of R5 that fails gives the status; with none the ring is ACTIVE with the values carried
and head and tail 0. -/
def Obligations.CreateRingByItsChecks : Prop :=
  ∀ (s : State) (ring weight : Byte) (size : Word) (base : Addr) (p : PendingEntry),
    Taken s 0 (.createRing ring weight size base) p →
    let u := s.takeDispatched 0
    let r : RingId := Fin.ofNat 5 ring.toNat
    let st : Status :=
      if ring = 0 then .badRing
      else if 4 < ring.toNat then .badParam
      else if size.toNat ∉ [4, 8, 16, 32, 64, 128, 256, 512, 1024] then .badParam
      else if weight.toNat < 1 ∨ 8 < weight.toNat then .badParam
      else if (s.ring r).state ≠ .absent then .badRing
      else .ok
    Completes s (.createRing ring weight size base) p (answer st 0 0 0)
      (if st = .ok then u.setRing r ⟨.active, base, size.toNat, weight.toNat, 0, 0⟩ else u)

/-- DELETE_RING: BAD_PARAM, BAD_RING, RING_BUSY, or the ring goes to ABSENT and its turn ends. That the base and the size
of the ABSENT ring are 0 is the model's choice (log 18). -/
def Obligations.DeleteRingByItsChecks : Prop :=
  ∀ (s : State) (ring : Byte) (p : PendingEntry), Taken s 0 (.deleteRing ring) p →
    let u := s.takeDispatched 0
    let r : RingId := Fin.ofNat 5 ring.toNat
    let busy := ∃ e ∈ s.intake.table, e.ring = r
    let gone := u.setRing r ⟨.absent, 0, 0, 0, 0, 0⟩
    (4 < ring.toNat → Completes s (.deleteRing ring) p (answer .badParam 0 0 0) u) ∧
    (ring.toNat ≤ 4 →
      (ring = 0 ∨ (s.ring r).state = .absent → Completes s (.deleteRing ring) p (answer .badRing 0 0 0) u) ∧
      (¬(ring = 0 ∨ (s.ring r).state = .absent) →
        (busy → Completes s (.deleteRing ring) p (answer .ringBusy 0 0 0) u) ∧
        (¬busy → Completes s (.deleteRing ring) p (answer .ok 0 0 0) { gone with
          intake := { gone.intake with turnOver := s.intake.turnOver || s.intake.current == some r } })))

/-- BARRIER completes at once with no earlier entry of its ring pending, and otherwise waits. When the completion of the
last earlier command of its ring joins the backlog, the completion of a BARRIER that waited for it is the next to join,
and its entry is freed. That nothing else comes between is log 14. -/
def Obligations.BarrierFollowsEarlierCommands : Prop :=
  (∀ (s : State) (src : RingId) (p : PendingEntry), Taken s src .barrier p →
    let u := s.takeDispatched src
    let earlier := ∃ e ∈ s.intake.table, e.ring = src ∧ e.age < p.age
    (¬earlier → Completes s (.barrier src) p (answer .ok 0 0 0) u) ∧
    (earlier → exec (.barrier src) s = .next { u with
      intake := { u.intake with barriers := s.intake.barriers ++ [p.age] } })) ∧
  (∀ (s : State) (e b : PendingEntry) (a : Answer),
    s.entry? e.age = some e → s.entry? b.age = some b → e.ring = b.ring → e.age < b.age →
    s.intake.barriers = [b.age] →
    (∀ x ∈ s.intake.table, x.ring = b.ring → x.age < b.age → x.age = e.age) →
    s.cpl.backlog.length + 2 ≤ 32 → s.cpl.claimants = [] →
    ∃ t, s.handIn [.command e.age a] = t ∧
      t.cpl.backlog = s.cpl.backlog ++ [completionOf e a s.timeBase, completionOf b (answer .ok 0 0 0) s.timeBase] ∧
      t.intake.barriers = [] ∧
      t.intake.table = (s.intake.table.filter (fun x => x.age != e.age)).filter fun x => x.age != b.age)

/-- REPORT: the snapshot of 512 bytes is taken at once and its write joins class 4 with the time; nothing else changes but
that the command has been taken. REPORT_WRITE_DONE: the REPORT completes OK with zero words and the time its snapshot was
taken. That a REPORT
is dispatched and taken in one step is log 5. -/
def Obligations.ReportTakesAndSendsASnapshot : Prop :=
  (∀ (s : State) (address : Addr) (p : PendingEntry), Taken s 0 (.report address) p →
    let u := s.takeDispatched 0
    u.reportBytes.length = 512 ∧
    exec (.report address) s = .next { u with link := { s.link with bus := { s.link.bus with
      class4 := s.link.bus.class4 ++ [⟨p.age, address, u.reportBytes, s.timeBase⟩] } } }) ∧
  (∀ (s : State) (w : ReportWrite) (p : PendingEntry),
    s.link.device = .online → s.link.bus.busy = true → s.link.bus.onLink = some (.report w) →
    s.entry? w.entry = some p →
    Completes s .reportWriteDone p ⟨.command .ok, 0, 0, 0, some w.takenAt⟩
      { s with link := { s.link with bus := { s.link.bus with busy := false } } })

/-! ### The Channel Table -/

/-- A channel is in use when a context in ARMED, RUNNING or STOPPING has a step that names it, or that names the DIFF
channel it is the partner of. A line is in use when such a context names it as pacing, start or stop line, or a counter
counts it. -/
def Obligations.InUseMeansNamedByAnActiveContext : Prop :=
  (∀ (s : State) (ch : ChanId), s.channelInUse ch = true ↔
    ∃ c : CtxId, ((s.ctx c).state = .armed ∨ (s.ctx c).state = .running ∨ (s.ctx c).state = .stopping) ∧
      ∃ st ∈ (s.ctx c).steps, st.input = ch.val ∨
        ∃ n : ChanId, st.input = n.val ∧ (s.chan n).mode = .diff ∧ ch.val = n.val + 16) ∧
  (∀ (s : State) (l : LineId), s.lineInUse l = true ↔
    (∃ c : CtxId, ((s.ctx c).state = .armed ∨ (s.ctx c).state = .running ∨ (s.ctx c).state = .stopping) ∧
      ∃ e, (s.ctx c).definition.source = .line l e ∨ (s.ctx c).definition.start = .line l e ∨
        (s.ctx c).definition.stop = .line l e) ∨
    ∃ (k : Fin 2) (e : Edge), (s.counter k).source = some (l, e))

/-- SET_CHANNEL: the first check of R33 that fails gives the status and nothing changes; with none the entry takes the
values carried, UNKNOWN and armed, and a change of pairing resets the partner's limit state and report. -/
def Obligations.SetChannelByItsChecks : Prop :=
  ∀ (s : State) (q : ChannelParams) (p : PendingEntry), Taken s 0 (.setChannel q) p →
    let u := s.takeDispatched 0
    let n := q.channel.toNat
    let ch : ChanId := Fin.ofNat 32 n
    let partner : ChanId := Fin.ofNat 32 (n + 16)
    let st : Status :=
      if 31 < n then .badParam
      else if q.mode ≠ 0 ∧ q.mode ≠ 1 then .badParam
      else if q.mode = 1 ∧ 15 < n then .badParam
      else if 7 < q.gain.toNat then .badParam
      else if q.range ≠ 0 ∧ q.range ≠ 1 then .badParam
      else if q.high.toNat < q.low.toNat then .badParam
      else if s.channelInUse ch then .channelInUse
      else if q.mode = 1 ∧ s.channelInUse partner then .channelInUse
      else .ok
    let mode : ChannelMode := if q.mode = 0 then .single else .diff
    let range : Range := if q.range = 0 then .bipolar else .unipolar
    let entry : Channel := ⟨mode, q.gain.toNat, range, q.limitEnable, q.low, q.high, q.report, .unknown, true⟩
    let set := { u with chans := s.chans.set ch.val entry }
    let both := { u with chans :=
      (s.chans.set ch.val entry).set partner.val { s.chan partner with limit := .unknown, armed := true } }
    Completes s (.setChannel q) p (answer st 0 0 0)
      (if st = .ok then (if n < 16 ∧ (s.chan ch).mode ≠ mode then both else set) else u)

/-- REARM_LIMIT: BAD_PARAM above 31, or the report is armed and the words tell whether it was and the limit state. A limit
event is reported only where the report flag is on, the report armed and the backlog has room with nobody waiting; the
report disarms the channel. Otherwise nothing changes. -/
def Obligations.LimitReportIsOneShotUntilRearmed : Prop :=
  (∀ (s : State) (channel : Byte) (p : PendingEntry), Taken s 0 (.rearmLimit channel) p →
    let u := s.takeDispatched 0
    let ch : ChanId := Fin.ofNat 32 channel.toNat
    let old := s.chan ch
    (31 < channel.toNat → Completes s (.rearmLimit channel) p (answer .badParam 0 0 0) u) ∧
    (channel.toNat ≤ 31 →
      Completes s (.rearmLimit channel) p
        (answer .ok (if old.armed then 1 else 0)
          (match old.limit with
            | .unknown => 0
            | .inside => 1
            | .above => 2
            | .below => 3) 0)
        { u with chans := s.chans.set ch.val { old with armed := true } })) ∧
  (∀ (s : State) (e : LimitEvent),
    let ch := s.chan e.channel
    let room := s.cpl.backlog.length < 32 ∧ s.cpl.claimants = []
    (ch.report = true → ch.armed = true → room →
      s.reportLimit e = { s with
        chans := s.chans.set e.channel.val { ch with armed := false }
        cpl := { s.cpl with backlog := s.cpl.backlog ++
          [⟨.limit e.region, 0, BitVec.ofNat 8 e.context.val, 0, 0, BitVec.ofNat 32 e.channel.val,
            e.code.setWidth 32,
            (match e.previous with
              | .unknown => 0
              | .inside => 1
              | .above => 2
              | .below => 3), e.time.setWidth 48⟩] } }) ∧
    (¬(ch.report = true ∧ ch.armed = true ∧ room) → s.reportLimit e = s))

/-- R37 whole: a compared sample moves the limit state to its region, and raises one event by the twelve rows. A sample
of an entry with limit enable off is not compared: it raises no event and the state is kept (R36, R38). -/
def Obligations.LimitStateTable : Prop :=
  ∀ (s : State) (n : ChanId) (code : Half) (c : CtxId) (time : Time),
    let ch := s.chan n
    let region : LimitState :=
      if code.toNat < ch.low.toNat then .below else if ch.high.toNat < code.toNat then .above else .inside
    let raised : Bool :=
      match ch.limit, region with
      | .unknown, .inside => false
      | .unknown, .above => true
      | .unknown, .below => true
      | .inside, .inside => false
      | .inside, .above => true
      | .inside, .below => true
      | .above, .above => false
      | .above, .inside => true
      | .above, .below => true
      | .below, .below => false
      | .below, .inside => true
      | .below, .above => true
      | _, .unknown => false
    (ch.limitEnable = true →
      (s.limitCheck n code c time).1 = { s with chans := s.chans.set n.val { ch with limit := region } } ∧
      (s.limitCheck n code c time).2 = if raised then some ⟨n, region, ch.limit, code, c, time⟩ else none) ∧
    (ch.limitEnable = false → s.limitCheck n code c time = (s, none))

/-! ### Loads and definitions -/

/-- LOAD_SEQUENCE: the first check of R49 that fails gives the answer and nothing changes; with none the context goes to
LOADING with the slots reserved, its old sequence gone, and the read of the step list is asked for. -/
def Obligations.LoadSequenceByItsChecks : Prop :=
  ∀ (s : State) (src : RingId) (c : CtxId) (count : Half) (address : Addr) (p : PendingEntry),
    Taken s src (.loadSequence c count address) p →
    let u := s.takeDispatched src
    let x := s.ctx c
    let free := 256 - (s.ctxs.toList.map fun y => y.slots).sum
    let refused : Option Answer :=
      if count.toNat < 1 ∨ 64 < count.toNat then some (answer .badParam 0 0 0)
      else if x.state ≠ .defined ∧ x.state ≠ .ready then some (answer .badState 0 0 0)
      else if x.cap.queue ≠ [] then some (answer .buffersHeld 0 0 0)
      else if free + x.slots < count.toNat then
        some (answer .poolFull (word free) (word x.slots) (count.setWidth 32))
      else none
    (∀ a, refused = some a → Completes s (.loadSequence src c count address) p a u) ∧
    (refused = none →
      exec (.loadSequence src c count address) s = .next { u.setCtx c
          { x with state := .loading, slots := count.toNat, steps := [], load := some p.age } with
        link := { s.link with bus := { s.link.bus with
          class2 := s.link.bus.class2 ++ [⟨.steps c p.age, address, 8 * count.toNat⟩] } } })

/-- DEFINE_CONTEXT: refused by its fields with BAD_PARAM and the number of the first of the twelve checks of R62 that fails;
refused with the words of R63; or the definition and the quota are replaced, READY stays READY, and the words give the
units left and the new frame size. The definition is what the carried fields stand for by the named values of R197. -/
def Obligations.DefineContextByItsChecks : Prop :=
  (∀ q : DefineParams,
    let d := definitionOf q
    let is (b : Byte) (l : LineId) : Prop := b = BitVec.ofNat 8 l.val
    let code (e : Edge) : Byte := match e with
      | .rising => 1
      | .falling => 2
    d.priority = q.priority.toNat ∧ (q.mode = 0 → d.mode = .step) ∧ (q.mode = 1 → d.mode = .scan) ∧
    (q.source = 0 → d.source = .internal q.period.toNat) ∧
    (∀ l e, q.source = 1 → is q.paceLine l → q.paceEdge = code e → d.source = .line l e) ∧
    (q.source = 2 → d.source = .soft) ∧
    (q.start = 0 → d.start = .immediate) ∧
    (∀ l e, q.start = 1 → is q.startLine l → q.startEdge = code e → d.start = .line l e) ∧
    (∀ n : ChanId, q.start = 2 → q.startLine = BitVec.ofNat 8 n.val →
      (q.startEdge = 1 → d.start = .limit n .above) ∧ (q.startEdge = 2 → d.start = .limit n .below) ∧
      (q.startEdge = 3 → d.start = .limit n .either)) ∧
    (q.stop = 0 → d.stop = .none) ∧
    (∀ l e, q.stop = 1 → is q.stopLine l → q.stopEdge = code e → d.stop = .line l e) ∧
    (q.bufferPolicy = 0 → d.bufferPolicy = .halt) ∧ (q.bufferPolicy = 1 → d.bufferPolicy = .discard) ∧
    (q.slipPolicy = 0 → d.slipPolicy = .count) ∧ (q.slipPolicy = 1 → d.slipPolicy = .halt) ∧
    (q.format = 0 → d.format = .packed) ∧ (q.format = 1 → d.format = .framed) ∧
    d.depth = q.depth.toNat ∧ d.count = q.count ∧ d.timeout = q.timeout.toNat ∧ d.flush = q.flush.toNat ∧
    d.clearCounters = q.clearCounters) ∧
  (∀ q : DefineParams,
    let edge (b : Byte) : Bool := b == 1 || b == 2
    let line (b : Byte) : Bool := b.toNat < 16
    let checks : List Bool :=
      [ q.priority.toNat ≤ 3,
        q.mode == 0 || q.mode == 1,
        q.source == 0 || q.source == 1 || q.source == 2,
        q.source != 0 || 20 ≤ q.period.toNat,
        q.source != 1 || (line q.paceLine && edge q.paceEdge),
        q.start == 0 || q.start == 1 || q.start == 2,
        (q.start != 1 || (line q.startLine && edge q.startEdge)) &&
          (q.start != 2 || (q.startLine.toNat < 32 && (edge q.startEdge || q.startEdge == 3))),
        (q.stop == 0 || q.stop == 1) && (q.stop != 1 || (line q.stopLine && edge q.stopEdge)),
        true,
        (q.bufferPolicy == 0 || q.bufferPolicy == 1) && (q.slipPolicy == 0 || q.slipPolicy == 1) &&
          (q.format == 0 || q.format == 1),
        1 ≤ q.quota.toNat && q.quota.toNat ≤ 32,
        (q.source == 0 || q.period == 0) && (q.source == 1 || (q.paceLine == 0 && q.paceEdge == 0)) &&
          (q.start != 0 || (q.startLine == 0 && q.startEdge == 0)) &&
          (q.stop != 0 || (q.stopLine == 0 && q.stopEdge == 0)) ]
    defineFault q = (checks.findIdx? (· == false)).map (· + 1)) ∧
  (∀ (s : State) (src : RingId) (c : CtxId) (q : DefineParams) (p : PendingEntry),
    Taken s src (.defineContext c q) p →
    let u := s.takeDispatched src
    let x := s.ctx c
    let held := (s.ctxs.toList.map fun y => y.cap.quota).sum - x.cap.quota
    let quota := q.quota.toNat
    let positions := (x.steps.map fun st => st.reps).sum
    let size := if q.format = 0 then 2 * positions else (16 + 2 * positions + 7) / 8 * 8
    let refused : Option Answer :=
      match defineFault q with
      | some n => some (answer .badParam (word n) 0 0)
      | none =>
        if x.state ≠ .unbound ∧ x.state ≠ .defined ∧ x.state ≠ .ready then some (answer .badState 0 0 0)
        else if x.cap.queue ≠ [] then some (answer .buffersHeld 0 0 0)
        else if 64 < held + quota then some (answer .stagingFull (word (64 - held)) (word quota) 0)
        else if x.steps ≠ [] ∧ 512 * quota < (q.depth.toNat + 1) * size then
          some (answer .stagingShort (word positions) (word size) (word (512 * quota)))
        else none
    (∀ a, refused = some a → Completes s (.defineContext src c q) p a u) ∧
    (refused = none →
      Completes s (.defineContext src c q) p
        (answer .ok (word (64 - (held + quota))) (if x.steps = [] then 0 else word size) 0)
        (u.setCtx c { x with
          state := if x.state = .ready then .ready else .defined
          defn := some (definitionOf q)
          cap := { x.cap with quota := quota } })))

/-! ### Runs -/

/-- ARM: the first check of R66 that fails gives the answer and the context stays as it was; with none the context is
ARMED with its counters zero and its pacing record prepared, and an IMMEDIATE start is taken at once. The index
of the divider is log 4. -/
def Obligations.ArmByItsChecks : Prop :=
  ∀ (s : State) (src : RingId) (c : CtxId) (p : PendingEntry), Taken s src (.arm c) p →
    let u := s.takeDispatched src
    let x := s.ctx c
    let d := x.definition
    let slot (st : Step) : Nat := if 32 ≤ st.input then 20 else 20 * (1 + st.settle)
    let least : Nat :=
      match d.mode with
      | .step => (x.steps.map slot).foldl max 0
      | .scan => (x.steps.map fun st => st.reps * slot st).sum
    let fast : Bool :=
      match d.source with
      | .internal period => period < least
      | .line _ _ | .soft => false
    let gain (st : Step) : Nat := if st.gain ≤ 7 then st.gain else (s.chan (Fin.ofNat 32 st.input)).gain
    let unsettled (st : Step) : Bool := st.input < 32 && 6 ≤ gain st && st.settle == 0
    let partner (st : Step) : Bool :=
      (List.range 16).any fun n => st.input == n + 16 && (s.chan (Fin.ofNat 32 n)).mode == .diff
    let named : List LineId :=
      (match d.source with
        | .line l _ => [l]
        | .internal _ | .soft => []) ++
      (match d.start with
        | .line l _ => [l]
        | .immediate | .limit _ _ => []) ++
      (match d.stop with
        | .line l _ => [l]
        | .none => [])
    let refused : Option Answer :=
      if x.state ≠ .ready then some (answer .badState 0 0 0)
      else if fast then some (answer .periodShort (word least) 0 0)
      else
        match x.steps.findIdx? unsettled, x.steps.findIdx? partner,
          named.find? (fun l => (s.line l).mode != .input), s.conv.cal.entry with
        | some i, _, _, _ => some (answer .settleShort (word i) 0 0)
        | none, some i, _, _ => some (answer .pairConflict (word i) 0 0)
        | none, none, some l, _ => some (answer .lineMode (word l.val) 0 0)
        | none, none, none, some _ => some (answer .calibrating 0 0 0)
        | none, none, none, none => none
    let history : Bool := 0 < d.depth && d.start != .immediate
    let divided : Bool :=
      match d.source with
      | .internal _ => history
      | .line _ _ | .soft => false
    let armed : Ctx := { x with
      state := .armed
      run := { Run.reset with armEntry := some p.age }
      pacing := { x.pacing with
        nextPos := 0, tick := .free, countReached := false, watcher := .start
        deadline := if d.timeout = 0 then none else some (s.timeBase + BitVec.ofNat 64 (10000 * d.timeout))
        phase := if history then .history else x.pacing.phase
        origin := if divided then s.timeBase else x.pacing.origin
        ticks := if divided then 0 else x.pacing.ticks }
      cap := { x.cap with lastWritten := none } }
    (∀ a, refused = some a → Completes s (.arm src c) p a u) ∧
    (refused = none → d.start ≠ .immediate → exec (.arm src c) s = .next (u.setCtx c armed)) ∧
    (refused = none → d.start = .immediate →
      exec (.arm src c) s = .next ((startedBy (u.setCtx c armed) c).handIn
        (runEventClaims (u.setCtx c armed) .runStart c)))

/-- A start trigger taken starts the run: history numbered, RUNNING, the stop trigger watched, the counters cleared if
the definition says so, and the updates deferred to the run start applied and answered, output 0's first. A limit event
and a line edge are start triggers only for a context that watches for them. The index of the divider is
log 4. -/
def Obligations.StartTriggerStartsTheRun : Prop :=
  ∀ (s : State) (c : CtxId) (e : LimitEvent),
    let x := s.ctx c
    let met : Bool :=
      match x.definition.start with
      | .limit ch d => ch == e.channel &&
          (match d, e.region with
            | .above, .above => true
            | .below, .below => true
            | .either, .above => true
            | .either, .below => true
            | _, _ => false)
      | .immediate | .line _ _ => false
    s.takeTrigger c = (startedBy s c).handIn (runEventClaims s .runStart c) ∧
    (x.pacing.watcher = .start ∧ met = true → s.limitTrigger e c = s.takeTrigger c) ∧
    (¬(x.pacing.watcher = .start ∧ met = true) → s.limitTrigger e c = s)

/-- STOP: refused outside ARMED, RUNNING and STOPPING; otherwise kept, and the run ends as its mode and state say. What
is due then is handed in. -/
def Obligations.StopEndsTheRunInOrder : Prop :=
  ∀ (s : State) (src : RingId) (c : CtxId) (p : PendingEntry), Taken s src (.stop c) p →
    let u := s.takeDispatched src
    let x := s.ctx c
    let run : Run := { x.run with stops := x.run.stops ++ [p.age] }
    let ended : Run := { run with endReason := some .stopped }
    let filling : Bool := x.cap.store.any fun f => f.cond == .filling
    let history : Bool := x.cap.store.any fun f => f.cond == .filling && f.history
    let stopping (r : Run) (store : List Frame) : Ctx :=
      { x with state := .stopping, run := r, pacing := pacingOver x.pacing, cap := { x.cap with store := store } }
    let goesTo (y : Ctx) : Prop := exec (.stop src c) s = .next ((u.setCtx c y).settleCtx c)
    (x.state ∉ [.armed, .running, .stopping] → Completes s (.stop src c) p (answer .badState 0 0 0) u) ∧
    (x.state = .running → x.definition.mode = .step → filling = true →
      goesTo (stopping { ended with discarded := x.run.discarded + 1 } (withoutFilling x.cap.store))) ∧
    (x.state = .running → x.definition.mode = .step → filling = false → goesTo (stopping ended x.cap.store)) ∧
    (x.state = .running → x.definition.mode = .scan → x.pacing.tick = .latched →
      goesTo (stopping { ended with
        numbered := x.run.numbered - 1
        nextScan := x.run.nextScan - 1
        begun := if history then x.run.begun else x.run.begun - 1 } (withoutFilling x.cap.store))) ∧
    (x.state = .running → x.definition.mode = .scan → x.pacing.tick ≠ .latched →
      goesTo (stopping ended x.cap.store)) ∧
    (x.state = .armed → x.run.endReason = none →
      goesTo { x with run := ended, pacing := pacingOver x.pacing, cap := { x.cap with store := [] } }) ∧
    (x.state = .stopping ∨ (x.state = .armed ∧ x.run.endReason ≠ none) → goesTo { x with run := run })

/-- ABORT by the state it finds: a run ends ABORTED with its frames discarded, its buffers on the return list and its
grant taken back; a second one joins; a load ends; a READY context returns its buffers; elsewhere BAD_STATE. An ARM
completion that waits gives up its place. What keeps its place is log 23. That the completion of an ABORT in READY stands
in the return list behind the buffers is the model's choice (log 15). When a pseudo-input granted as the grant is taken
back is read, among the line changes of the run's end, is an operand (log 29). -/
def Obligations.AbortByTheStateItFinds : Prop :=
  ∀ (s : State) (src : RingId) (c : CtxId) (read : ReadOrder) (p : PendingEntry), Taken s src (.abort c) p →
    let u := s.takeDispatched src
    let x := s.ctx c
    let kept := x.cap.store.filter fun f => f.cond == .writing
    let run : Run := { x.run with endReason := some .aborted, aborts := x.run.aborts ++ [p.age] }
    let cap : Capture := { x.cap with
      returns := x.cap.returns ++ returned x.cap.queue, queue := [], faultLimit := none, flushDeadline := none }
    let armWaits : Bool :=
      match x.nextHandIn (s.holdsConverter c) with
      | some (.armAnswer _ _) => true
      | _ => false
    let v : State :=
      if armWaits then { u with cpl := { u.cpl with claimants := s.cpl.claimants.filter (· != .context c) } } else u
    let back (y : Ctx) : State :=
      if s.holdsConverter c then
        { v.setCtx c { y with pacing := { y.pacing with tick := .free } } with
          conv := { s.conv with holder := .none } }.arbitrate
      else v.setCtx c y
    (x.state = .running ∨ x.state = .stopping → x.run.endReason ≠ some .aborted →
      exec (.abort src ⟨c, read⟩) s = .next (readInOrder read s ((back { x with
        state := .stopping
        pacing := pacingOver x.pacing
        run := { run with discarded := x.run.discarded + word (x.cap.store.length - kept.length) }
        cap := { cap with store := kept } }).settleCtx c))) ∧
    (x.state = .armed → x.run.endReason ≠ some .aborted →
      exec (.abort src ⟨c, read⟩) s = .next (readInOrder read s ((back { x with
        pacing := pacingOver x.pacing
        run := run
        cap := { cap with store := [] } }).settleCtx c))) ∧
    (x.state ∈ [.armed, .running, .stopping] → x.run.endReason = some .aborted →
      exec (.abort src ⟨c, read⟩) s =
        .next (u.setCtx c { x with run := { x.run with aborts := x.run.aborts ++ [p.age] } })) ∧
    (∀ load, x.state = .loading → x.load = some load →
      exec (.abort src ⟨c, read⟩) s = .next ((u.setCtx c
        { x with state := .defined, slots := 0, steps := [], load := none }).handIn
          [.command load (answer .aborted 0 0 0), .command p.age (answer .ok 0 0 0)])) ∧
    (x.state = .ready → x.cap.queue = [] → Completes s (.abort src ⟨c, read⟩) p (answer .ok 0 0 0) u) ∧
    (x.state = .ready → x.cap.queue ≠ [] →
      exec (.abort src ⟨c, read⟩) s = .next ((u.setCtx c { x with cap := { cap with
        returns := cap.returns ++ [.command p.age (answer .ok 0 0 0)] } }).settleCtx c)) ∧
    (x.state ∈ [.unbound, .defined, .halted] → Completes s (.abort src ⟨c, read⟩) p (answer .badState 0 0 0) u)

/-- RESET_CONTEXT and RELEASE_CONTEXT: refused by state, or the buffers are returned, the counters are zero, the updates
deferred to the context are cancelled, and the completion follows the buffers. That it stands behind them in the return
list is log 15. The place of the CANCELLED completions, behind the first returned buffer and before the later ones, or
behind the command's own completion where no buffer is returned, is the model's choice too (logs 14 and 15): R178 lets
them come before or after. -/
def Obligations.ResetAndReleaseReturnTheBuffers : Prop :=
  ∀ (s : State) (src : RingId) (c : CtxId) (p : PendingEntry),
    let u := s.takeDispatched src
    let x := s.ctx c
    let run : Run := { x.run with
      numbered := 0, delivered := 0, dropped := 0, discarded := 0, slips := 0, historyDelivered := 0
      nextScan := 0, begun := 0 }
    let cap (a : Answer) : Capture := { x.cap with
      returns := x.cap.returns ++ returned x.cap.queue ++ [.command p.age a]
      queue := [], faultLimit := none, flushDeadline := none }
    let outs := s.outs.map fun o =>
      match o.update with
      | some d => if d.ctx = c then ⟨o.code, none⟩ else o
      | none => o
    let cancelled (n : Fin 2) : List Claim :=
      match (s.out n).update with
      | some d => if d.ctx = c then
          [.command d.entry (answer .cancelled (word n.val) (d.code.setWidth 32) ((s.out n).code.setWidth 32))]
        else []
      | none => []
    let ends (y : Ctx) : State :=
      let w := { u.setCtx c y with outs := outs }
      w.handIn (w.contextClaim c ++ (cancelled 0 ++ cancelled 1))
    (Taken s src (.resetContext c) p →
      (x.state ∈ [.defined, .ready, .halted] →
        exec (.resetContext src c) s = .next (ends { x with
          state := if x.state = .defined then .defined else .ready
          run := run
          cap := cap (answer .ok (word x.cap.queue.length) 0 0) })) ∧
      (x.state ∉ [.defined, .ready, .halted] →
        Completes s (.resetContext src c) p (answer .badState 0 0 0) u)) ∧
    (Taken s src (.releaseContext c) p →
      (x.state ∈ [.defined, .ready, .halted] →
        exec (.releaseContext src c) s = .next (ends { x with
          state := .unbound, defn := none, slots := 0, steps := []
          run := run
          cap := { cap (answer .ok (word x.cap.queue.length) (word x.slots) (word x.cap.quota)) with quota := 0 } })) ∧
      (x.state = .unbound → Completes s (.releaseContext src c) p (answer .ok 0 0 0) u) ∧
      (x.state ∈ [.loading, .armed, .running, .stopping] →
        Completes s (.releaseContext src c) p (answer .badState 0 0 0) u))

/-- PULSE: refused outside the active states; one tick of a SOFT context that takes ticks; otherwise no tick. Its own
completion, with the disposition, is handed in before what the tick leads to. The order of its hand-ins is R100 and log 14,
and when the readings of the event are taken is an operand (log 29). -/
def Obligations.PulseIsOneTick : Prop :=
  ∀ (s : State) (src : RingId) (c : CtxId) (read : ReadOrder) (p : PendingEntry), Taken s src (.pulse c) p →
    let u := s.takeDispatched src
    let x := s.ctx c
    let active := x.state ∈ [.armed, .running, .stopping]
    let ticks := x.definition.source = .soft ∧ x.pacing.phase ≠ .off
    let own (t : State) (disposition position : Word) : State :=
      readInOrder read s ((t.handIn [.command p.age (answer .ok disposition position 0)]).settleCtx c)
    (¬active → Completes s (.pulse src ⟨c, read⟩) p (answer .badState 0 0 0) u) ∧
    (active → ¬ticks → exec (.pulse src ⟨c, read⟩) s = .next (own u 0 0)) ∧
    (active → ticks →
      ((u.deliverTick c).2 = .notTaken → exec (.pulse src ⟨c, read⟩) s = .next (own (u.deliverTick c).1 0 0)) ∧
      (∀ position, (u.deliverTick c).2 = .taken position →
        exec (.pulse src ⟨c, read⟩) s = .next (own (u.deliverTick c).1 1
          (if x.definition.mode = .step then word position else 0))) ∧
      ((u.deliverTick c).2 = .slip → exec (.pulse src ⟨c, read⟩) s = .next (own (u.deliverTick c).1 2 0)))

/-- The tick latch, where the tick begins no scan: not taken, a position asked for, or a slip by phase and policy. -/
def Obligations.TickLatchHoldsOneTick : Prop :=
  ∀ (s : State) (c : CtxId),
    let x := s.ctx c
    let begins := x.definition.mode = .scan ∨ x.pacing.nextPos = 0
    let slipped : Ctx := { x with run := { x.run with slips := x.run.slips + 1 } }
    (x.pacing.phase = .off → s.deliverTick c = (s, .notTaken)) ∧
    (x.pacing.phase ≠ .off → x.pacing.tick = .free → begins → x.pacing.countReached = true →
      s.deliverTick c = (s, .notTaken)) ∧
    (x.pacing.phase ≠ .off → x.pacing.tick = .free → ¬begins →
      s.deliverTick c = ((s.setCtx c { x with pacing := { x.pacing with tick := .latched } }).arbitrate,
        .taken x.pacing.nextPos)) ∧
    (x.pacing.phase = .history → x.pacing.tick ≠ .free → s.deliverTick c = (s, .slip)) ∧
    (x.pacing.phase = .run → x.pacing.tick ≠ .free → x.definition.slipPolicy = .count →
      s.deliverTick c = (s.setCtx c slipped, .slip)) ∧
    (x.pacing.phase = .run → x.pacing.tick ≠ .free → x.definition.slipPolicy = .halt →
      s.deliverTick c = (s.setCtx c (faultEnded slipped .pacingOverrun), .slip))

/-- A tick that begins a scan: a history scan reserves and may give up the oldest; a scan of the run is numbered and
reserved, or numbered and dropped, or ends the run OVERRUN; SCAN_START lines pulse after the lines are recorded; and the
arbiter selects. Staging has room while the store holds fewer frames than the quota holds whole (R137). -/
def Obligations.TickBeginsAScan : Prop :=
  ∀ (s : State) (c : CtxId),
    let x := s.ctx c
    let d := x.definition
    let frame (scan : Option Word) (history : Bool) : Frame :=
      ⟨scan, s.timeBase, s.lineSnapshot, history, false, .filling,
        List.replicate (x.steps.map fun st => st.reps).sum 0⟩
    let positions := (x.steps.map fun st => st.reps).sum
    let size := match d.format with
      | .packed => 2 * positions
      | .framed => (16 + 2 * positions + 7) / 8 * 8
    let capacity := if x.steps = [] then 0 else 512 * x.cap.quota / size
    let latched : Pacing := { x.pacing with tick := .latched }
    let begun := x.run.begun + 1
    let counted : Bool := x.pacing.countReached || (d.count != 0 && begun == d.count)
    let numbered : Run := { x.run with
      numbered := x.run.numbered + 1, nextScan := x.run.nextScan + 1, begun := begun }
    let dropped : Run := { numbered with dropped := x.run.dropped + 1 }
    let pulsing (l : Line) : Line :=
      if l.mode = .event c .scanStart then { l with pulseEnd := some (s.timeBase + 10) } else l
    let goesTo (y : Ctx) : Prop := s.deliverTick c =
      ({ s.setCtx c y with lines := { s.lines with lines := s.lines.lines.map pulsing } }.arbitrate, .taken 0)
    x.pacing.phase ≠ .off → x.pacing.tick = .free → (d.mode = .scan ∨ x.pacing.nextPos = 0) →
    x.pacing.countReached = false → (d.mode = .scan → x.pacing.nextPos = 0) →
    (x.pacing.phase = .history →
      goesTo { x with pacing := latched, cap := { x.cap with
        store := (if d.depth ≤ x.cap.store.length then x.cap.store.tail else x.cap.store) ++ [frame none true] } }) ∧
    (x.pacing.phase = .run → x.cap.store.length < capacity →
      goesTo { x with
        run := numbered
        pacing := { latched with countReached := counted }
        cap := { x.cap with store := x.cap.store ++ [frame (some x.run.nextScan) false] } }) ∧
    (x.pacing.phase = .run → capacity ≤ x.cap.store.length → d.bufferPolicy = .discard →
      (¬(x.state = .running ∧ counted = true) →
        goesTo { x with run := dropped, pacing := { x.pacing with countReached := counted } }) ∧
      (x.state = .running ∧ counted = true →
        goesTo { x with
          state := .stopping
          run := { dropped with endReason := some .countDone }
          pacing := pacingOver x.pacing })) ∧
    (x.pacing.phase = .run → capacity ≤ x.cap.store.length → d.bufferPolicy = .halt →
      goesTo (faultEnded x .overrun))

/-- INTERNAL_TICK: a context in phase HISTORY or RUN takes the divider's next tick at origin + k × period, and its
conversion work and run move on; in phase OFF nothing happens. That `k` is the first not delivered and not past is
log 4, and that the command brings the time base to that instant is log 3. When the readings of the event are taken is an
operand (log 29). -/
def Obligations.InternalTickComesAtItsInstant : Prop :=
  ∀ (s : State) (c : CtxId) (period k : Nat) (read : ReadOrder),
    let x := s.ctx c
    let at' : Time := x.pacing.origin + BitVec.ofNat 64 (k * period)
    s.link.device = .online → x.definition.source = .internal period → 0 < period →
    (x.pacing.phase = .off → exec (.internalTick ⟨c, read⟩) s = .next s) ∧
    (x.pacing.phase ≠ .off → x.pacing.ticks ≤ k → s.timeBase.toNat ≤ x.pacing.origin.toNat + k * period →
      (k = x.pacing.ticks ∨ x.pacing.origin.toNat + (k - 1) * period < s.timeBase.toNat) →
      exec (.internalTick ⟨c, read⟩) s = .next (readInOrder read s (({ s.setCtx c { x with pacing := { x.pacing with ticks := k + 1 } } with
        timeBase := if at'.toNat ≤ s.timeBase.toNat then s.timeBase else at' }.deliverTick c).1.settleCtx c)))

/-- SLOT_END: an analog sample is corrected, placed, compared, and its limit event reported and given to the contexts
that wait; a digital value is placed as it was read. Then the grant goes on with the next position at that instant, or
ends: the tick state is FREE, the position advances or the frame is complete, the count may end the run, the arbiter
selects and what is due is handed in. The next slot is that of the step the position belongs to, with its length and its
input read at that instant. That the time base is brought to the end of the slot is log 3, and that the report logic takes
the event as it is raised, before any context has, is log 28; the order in which the contexts take it (log 11) and when
the readings are taken (log 29) are operands. -/
def Obligations.SlotEndHandsTheSampleOn : Prop :=
  ∀ (s : State) (g : Grant) (raw : Half) (order : List CtxId) (read : ReadOrder),
    s.link.device = .online → s.conv.holder = .context g →
    let now := if g.slot.stop.toNat ≤ s.timeBase.toNat then s.timeBase else g.slot.stop
    let x := s.ctx g.ctx
    let placed (code : Half) : State := { s.setCtx g.ctx { x with cap := { x.cap with
      store := x.cap.store.map fun f =>
        if f.cond = .filling then { f with samples := f.samples.set g.slot.pos code } else f } } with
      timeBase := now }
    let goesTo (t : State) : Prop := exec (.slotEnd raw ⟨order, read⟩) s = .next (readInOrder read s (t.endSlot g))
    (order.Nodup → (∀ c, c ∈ order) → completeOrder allContexts order = order) ∧
    (∀ value, g.slot.input = .digital value → goesTo (placed value)) ∧
    (∀ ch mode gain range, g.slot.input = .analog ch mode gain range → gain ≤ 7 →
      let index := (match range with
        | .bipolar => 0
        | .unipolar => 8) + gain
      ∀ h : index < 16,
      let code := s.conv.table[index].correct raw
      let l := (placed code).limitCheck ch code g.ctx g.slot.start
      (l.2 = none → goesTo l.1) ∧
      (∀ e, l.2 = some e → goesTo ((completeOrder allContexts order).foldl (fun t c => t.limitTrigger e c)
        (l.1.reportLimit e)))) ∧
    (∀ t : State, g.slot.pos < g.last →
      t.endSlot g = { t with conv := { t.conv with
        holder := .context { g with slot := t.slotAt g.ctx (g.slot.pos + 1) g.slot.stop } } }) ∧
    (∀ (t : State) (st : Step), PositionOf (t.ctx g.ctx).steps (g.slot.pos + 1) st →
      st.input ≤ 34 → (st.gain ≤ 7 ∨ st.gain = 15) →
      t.slotAt g.ctx (g.slot.pos + 1) g.slot.stop = slotOf t st (g.slot.pos + 1) g.slot.stop) ∧
    (∀ t : State, g.last ≤ g.slot.pos →
      let y := t.ctx g.ctx
      let free : Pacing := { y.pacing with tick := .free }
      let complete := y.cap.store.map fun f => if f.cond = .filling then { f with cond := .complete } else f
      let ends (z : Ctx) : Prop :=
        t.endSlot g = { t.setCtx g.ctx z with conv := { t.conv with holder := .none } }.arbitrate.settleCtx g.ctx
      let done (z : Ctx) : Ctx :=
        if y.state = .running ∧ y.pacing.countReached = true then
          { z with
            state := .stopping
            run := { y.run with endReason := some .countDone }
            pacing := pacingOver free }
        else z
      (y.definition.mode = .scan → ends (done { y with pacing := free, cap := { y.cap with store := complete } })) ∧
      (y.definition.mode = .step → y.pacing.phase = .off → ends { y with pacing := free }) ∧
      (y.definition.mode = .step → y.pacing.phase ≠ .off →
        y.pacing.nextPos + 1 < (y.steps.map fun st => st.reps).sum →
        ends { y with pacing := { free with nextPos := y.pacing.nextPos + 1 } }) ∧
      (y.definition.mode = .step → y.pacing.phase ≠ .off →
        (y.steps.map fun st => st.reps).sum ≤ y.pacing.nextPos + 1 →
        ends (done { y with pacing := { free with nextPos := 0 }, cap := { y.cap with store := complete } })))

/-- The arbiter: with the converter free on an ONLINE device, a calibration request first; else, among the contexts
LATCHED, the lowest priority value, and of those the first after the last granted. The grant is one slot in STEP mode
and the whole scan in SCAN mode. Its first slot is that of the step the position belongs to, with its length and its input
read now: the channel's entry, whose gain the code 15 stands for, or a pseudo-input. -/
def Obligations.ArbiterServesByPriorityThenInTurn : Prop :=
  ∀ s : State,
    let waits (c : CtxId) : Prop := (s.ctx c).pacing.tick = .latched
    let top (c : CtxId) : Prop := waits c ∧
      ∀ d, waits d → (s.ctx c).definition.priority ≤ (s.ctx d).definition.priority
    let nth (k : Nat) : CtxId :=
      match s.conv.lastGranted with
      | none => Fin.ofNat 8 k
      | some l => Fin.ofNat 8 (l.val + 1 + k)
    (s.link.device ≠ .online ∨ s.conv.holder ≠ .none → s.arbitrate = s) ∧
    (s.link.device = .online → s.conv.holder = .none →
      (s.conv.calRequest = true →
        s.arbitrate = { s with conv := { s.conv with holder := .calibration, calRequest := false } }) ∧
      (s.conv.calRequest = false →
        ((∀ c, ¬waits c) → s.arbitrate = s) ∧
        (∀ k < 8, top (nth k) → (∀ j < k, ¬top (nth j)) →
          let c := nth k
          let x := s.ctx c
          let granted (pos last counts : Nat) : State :=
            { s.setCtx c { x with pacing := { x.pacing with tick := .granted } } with conv := { s.conv with
              lastGranted := some c
              holder := .context ⟨c, s.slotAt c pos s.timeBase, last, s.timeBase + BitVec.ofNat 64 counts⟩ } }
          let slot (st : Step) : Nat := if 32 ≤ st.input then 20 else 20 * (1 + st.settle)
          (x.definition.mode = .step →
            s.arbitrate = granted x.pacing.nextPos x.pacing.nextPos (slot (x.stepOf x.pacing.nextPos))) ∧
          (x.definition.mode = .scan →
            s.arbitrate = granted 0 ((x.steps.map fun st => st.reps).sum - 1)
              (x.steps.map fun st => st.reps * slot st).sum)) ∧
        (∀ (c : CtxId) (pos : Nat) (st : Step), PositionOf (s.ctx c).steps pos st →
          st.input ≤ 34 → (st.gain ≤ 7 ∨ st.gain = 15) → s.slotAt c pos s.timeBase = slotOf s st pos s.timeBase)))

/-- TRIGGER_TIMEOUT, FLUSH_TIMER and EVENT_PULSE_END act when the time base reaches their instants: the run ends in ARMED
with its history given up; the open buffer is due PARTIAL; the line falls. With no deadline nothing happens.
That the time base is brought to the instant is log 3. -/
def Obligations.TimersExpireAtTheirInstants : Prop :=
  ∀ (s : State) (c : CtxId) (l : LineId),
    let reached (t : Time) : State := { s with timeBase := if t.toNat ≤ s.timeBase.toNat then s.timeBase else t }
    let x := s.ctx c
    (∀ t, s.link.device = .online → x.pacing.deadline = some t →
      exec (.triggerTimeout c) s = .next (((reached t).setCtx c { x with
        run := { x.run with endReason := some .triggerTimeout }
        pacing := pacingOver x.pacing
        cap := { x.cap with store := [] } }).settleCtx c)) ∧
    (x.pacing.deadline = none → exec (.triggerTimeout c) s = .next s) ∧
    (∀ t b rest, s.link.device = .online → x.cap.flushDeadline = some t → x.cap.queue = b :: rest →
      exec (.flushTimer c) s = .next (((reached t).setCtx c { x with cap := { x.cap with
        queue := { b with due := some .partial' } :: rest
        flushDeadline := none } }).settleCtx c)) ∧
    (x.cap.flushDeadline = none → exec (.flushTimer c) s = .next s) ∧
    (∀ t, (s.line l).pulseEnd = some t →
      exec (.eventPulseEnd l) s = .next ((reached t).setLine l { s.line l with pulseEnd := none })) ∧
    ((s.line l).pulseEnd = none → exec (.eventPulseEnd l) s = .next s)

/-- The end of a run whose frames are written and whose buffers are settled. With room in the backlog the ARM is answered
with the end reason and the counts, the context goes to READY or HALTED, then each STOP and each ABORT is answered in
order; after the last, the updates deferred to the run end are applied, output 0's before output 1's, and each is
answered, or waits if the backlog is full by then. That they are applied in the event of that last completion is log 33.
With no room for the ARM nothing of this happens yet, and the context
waits behind the other claimants. -/
def Obligations.RunEndAnswersArmThenStopsThenAborts : Prop :=
  ∀ (s : State) (c : CtxId) (reason : EndReason) (arm : PendingEntry),
    let x := s.ctx c
    let limit := if x.state = .stopping then none else x.cap.faultLimit
    let line (p : PendingEntry) (st : CplStatus) (w0 w1 w2 : Word) : Completion :=
      ⟨st, p.ring, p.context, p.tag, p.subHead, w0, w1, w2, s.timeBase.setWidth 48⟩
    let updates : List (Fin 2 × Deferred) := ([0, 1] : List (Fin 2)).filterMap fun n =>
      match (s.out n).update with
      | some d => if d.event = .runEnd ∧ d.ctx = c then some (n, d) else none
      | none => none
    let applied (n : Fin 2) (d : Deferred) : Answer :=
      ⟨.command .ok, word n.val, d.code.setWidth 32, (s.out n).code.setWidth 32, some s.timeBase⟩
    (x.state = .armed ∨ x.state = .stopping) → x.run.endReason = some reason →
    x.run.armEntry = some arm.age → x.cap.store = [] → x.cap.writing = false → x.cap.returns = [] →
    (∀ b ∈ x.cap.queue, b.opened = false ∧ b.due = none) → s.holdsConverter c = false →
    (∀ stops aborts updated : List PendingEntry,
      let all := arm :: (stops ++ aborts ++ updated)
      x.run.stops = stops.map (·.age) → x.run.aborts = aborts.map (·.age) →
      updates.map (fun u => u.2.entry) = updated.map (·.age) →
      (∀ p ∈ all, p ∈ s.intake.table) → (s.intake.table.map (·.age)).Nodup → (all.map (·.age)).Nodup →
      s.intake.barriers = [] → s.cpl.claimants = [] →
      s.cpl.backlog.length + 1 + stops.length + aborts.length ≤ 32 →
      let room := 32 - (s.cpl.backlog.length + 1 + stops.length + aborts.length)
      let t := s.settleCtx c
      t.cpl.backlog = s.cpl.backlog ++
        line arm (.run reason) x.run.delivered x.run.dropped
          ((x.run.discarded &&& 0xFFFF) ||| (x.run.historyDelivered &&& 0xFF) <<< 16 |||
            word (min x.run.slips.toNat 255) <<< 24) ::
        (stops.map (fun p => line p (.command (if reason = .aborted then .overtaken else .ok)) (word reason.code) 0 0) ++
          aborts.map (fun p => line p (.command .ok) 0 0 0) ++
          (List.zipWith (fun p u => completionOf p (applied u.1 u.2) s.timeBase) updated updates).take room) ∧
      t.cpl.claimants = (updates.drop room).map (fun u => .command u.2.entry (applied u.1 u.2)) ∧
      t.outs = s.outs.map (fun o => outputAfter o .runEnd c) ∧
      t.ctx c = { x with
        state := if reason = .overrun ∨ reason = .pacingOverrun then .halted else .ready
        run := { x.run with endReason := none, armEntry := none, stops := [], aborts := [] }
        cap := { x.cap with faultLimit := limit } } ∧
      t.intake.table = s.intake.table.filter fun p =>
        !((arm :: (stops ++ aborts ++ updated.take room)).map (·.age)).contains p.age) ∧
    (¬(s.cpl.backlog.length < 32 ∧ s.cpl.claimants = []) → .context c ∉ s.cpl.claimants →
      s.settleCtx c = { s.setCtx c { x with cap := { x.cap with faultLimit := limit } } with
        cpl := { s.cpl with claimants := s.cpl.claimants ++ [.context c] } })

/-! ### Calibration and correction -/

/-- The correction of a raw code is (r − o) × s / 65536 rounded to the nearest whole code, a half upward, and clamped. -/
def Obligations.CorrectionRoundsAndClamps : Prop :=
  ∀ (e : CorrEntry) (raw : Half) (n : Int),
    let exact65536 : Int := ((raw.toNat : Int) - e.offset) * e.scale
    2 * 65536 * n ≤ 2 * exact65536 + 65536 → 2 * exact65536 + 65536 < 2 * 65536 * (n + 1) →
    ((e.correct raw).toNat : Int) = if n < 0 then 0 else if 65535 < n then 65535 else n

/-- CALIBRATE: refused while one is in flight or a context is active; otherwise entry 0 is measured with the converter
granted at once, and nothing is answered yet. -/
def Obligations.CalibrateTakesTheConverter : Prop :=
  ∀ (s : State) (store : Bool) (p : PendingEntry), Taken s 0 (.calibrate store) p →
    let u := s.takeDispatched 0
    let active := ∃ c : CtxId, (s.ctx c).state = .armed ∨ (s.ctx c).state = .running ∨ (s.ctx c).state = .stopping
    (s.conv.cal.entry ≠ none → Completes s (.calibrate store) p (answer .calibrating 0 0 0) u) ∧
    (s.conv.cal.entry = none → active → Completes s (.calibrate store) p (answer .converterBusy 0 0 0) u) ∧
    (s.conv.cal.entry = none → ¬active → s.conv.holder = .none →
      exec (.calibrate store) s = .next { u with conv := { s.conv with
        holder := .calibration, calRequest := false
        cal := ⟨.measuring 0, some p.age, store, []⟩ } })

/-- CAL_ENTRY_MEASURED and CAL_STORE_DONE: an entry out of tolerance ends the calibration CAL_FAILED and changes no
table; a good one leads to the next, or to storing in the older copy of R128, or replaces the live table; the end of the
store writes that copy with the generation after that of the newer valid one, or 1, and replaces the table. That a check
value is a flag is log 9. -/
def Obligations.CalibrationMeasuresStoresAndEnds : Prop :=
  ∀ (s : State) (k : Fin 16) (low high : Half) (p : PendingEntry), s.link.device = .online →
    s.conv.cal.entry = some p.age → s.entry? p.age = some p → s.conv.calRequest = false →
    (∀ c, (s.ctx c).pacing.tick ≠ .latched) →
    let span : Int := if k.val < 8 then 49152 else 57344
    let base : Int := if k.val < 8 then 8192 else 4096
    let read : Int := (high.toNat : Int) - low.toNat
    let scale : Int := (2 * (65536 * span) + read) / (2 * read)
    let offset : Int := (2 * (low.toNat * span - base * read) + span) / (2 * span)
    let fault : Option Nat :=
      if read ≤ 0 then some 2
      else if scale < 61440 ∨ 69632 < scale then some 2
      else if offset < -2048 ∨ 2047 < offset then some 1
      else none
    let readings := s.conv.cal.readings ++ [⟨offset, scale.toNat⟩]
    let table (r : List CorrEntry) : Vector CorrEntry 16 := Vector.ofFn fun i : Fin 16 => r.getD i.val ⟨0, 65536⟩
    let ended : Calibration := { s.conv.cal with phase := .idle, readings := [] }
    let valid (n : Fin 2) : Prop := CopyValid s.conv.nv[n.val]
    let lower : Prop := s.conv.nv[0].generation.toNat < s.conv.nv[1].generation.toNat
    let older (n : Fin 2) : Prop :=
      (valid 0 ∧ valid 1 ∧ n = if s.conv.nv[0].generation.toNat < s.conv.nv[1].generation.toNat then 0 else 1) ∨
      (valid 0 ∧ ¬valid 1 ∧ n = 1) ∨ (¬valid 0 ∧ n = 0)
    let next (generation : Word) : Prop :=
      (valid 0 ∧ valid 1 → lower → generation = s.conv.nv[1].generation + 1) ∧
      (valid 0 ∧ valid 1 → ¬lower → generation = s.conv.nv[0].generation + 1) ∧
      (valid 0 → ¬valid 1 → generation = s.conv.nv[0].generation + 1) ∧
      (¬valid 0 → valid 1 → generation = s.conv.nv[1].generation + 1) ∧
      (¬valid 0 → ¬valid 1 → generation = 1)
    (s.conv.holder = .calibration → s.conv.cal.phase = .measuring k →
      (∀ reason, fault = some reason →
        Completes s (.calEntryMeasured low high) p (answer .calFailed (word k.val) (word reason) 0)
          { s with conv := { s.conv with holder := .none, cal := ended } }) ∧
      (fault = none → k.val < 15 →
        exec (.calEntryMeasured low high) s = .next { s with conv := { s.conv with
          cal := { s.conv.cal with phase := .measuring (k + 1), readings := readings } } }) ∧
      (∀ n : Fin 2, fault = none → k.val = 15 → s.conv.cal.store = true → older n →
        exec (.calEntryMeasured low high) s = .next { s with conv := { s.conv with
          holder := .none
          nv := s.conv.nv.set n.val { s.conv.nv[n.val] with intact := false }
          cal := { s.conv.cal with phase := .storing n, readings := readings } } }) ∧
      (fault = none → k.val = 15 → s.conv.cal.store = false →
        Completes s (.calEntryMeasured low high) p (answer .ok 0 0 0)
          { s with conv := { s.conv with
            holder := .none, table := table readings, source := .calibrated, cal := ended } })) ∧
    (∀ copy generation, s.conv.cal.phase = .storing copy → next generation →
      Completes s .calStoreDone p (answer .ok 1 (word copy.val) generation)
        { s with conv := { s.conv with
          nv := s.conv.nv.set copy.val ⟨table s.conv.cal.readings, .calibrated, generation, true⟩
          table := table s.conv.cal.readings
          source := .calibrated
          cal := ended } })

/-! ### Buffers and frames -/

/-- POST_BUFFER: the first check of R143 that fails gives the answer; with none the buffer joins the back of the queue
and the words give the queue's length and the frames the buffer holds. -/
def Obligations.PostBufferByItsChecks : Prop :=
  ∀ (s : State) (src : RingId) (c : CtxId) (length tag : Word) (address : Addr) (p : PendingEntry),
    Taken s src (.postBuffer c length tag address) p →
    let u := s.takeDispatched src
    let x := s.ctx c
    let size := x.frameSize
    let refused : Option Answer :=
      if length.toNat < 256 ∨ 1048576 < length.toNat ∨ length.toNat % 64 ≠ 0 then some (answer .badParam 0 0 0)
      else if x.state ∉ [.ready, .armed, .running, .stopping] then some (answer .badState 0 0 0)
      else if 16 ≤ x.cap.queue.length then some (answer .queueFull 16 0 0)
      else if length.toNat < size then some (answer .bufferTooSmall (word size) 0 0)
      else none
    (∀ a, refused = some a → Completes s (.postBuffer src c length tag address) p a u) ∧
    (refused = none →
      Completes s (.postBuffer src c length tag address) p
        (answer .ok (word (x.cap.queue.length + 1)) (word (length.toNat / size)) 0)
        (u.setCtx c { x with cap := { x.cap with
          queue := x.cap.queue ++ [⟨address, length.toNat, tag, src, 0, 0, 0, false, false, none⟩] } }))

/-- FRAME_WRITE_BEGIN of an ONLINE context in RUNNING or STOPPING whose oldest frame is COMPLETE with no write in flight:
the frame goes to the head of the queue, with GAP by R146; or the open head is too short and due FILLED; or no buffer is
to be had; or, with a staging error, the device enters FAILED: class 1 holds nothing but the FAILED message, which is put
there if INT_ENABLE is 1 and the host has enabled messages, a completion record being sent goes on, and INT_CAUSE becomes
FAILED if INT_ENABLE is 1 (R194). What class 1 and the transfer on the link become is log 19, and that the frame, its
buffer and the context stay as they were is log 30. -/
def Obligations.FrameWriteBeginTakesTheOldestFrame : Prop :=
  ∀ (s : State) (c : CtxId) (f : Frame) (rest : List Frame),
    let x := s.ctx c
    let size := x.frameSize
    s.link.device = .online → (x.state = .running ∨ x.state = .stopping) → x.cap.writing = false →
    x.cap.store = f :: rest → f.cond = .complete →
    (x.cap.queue = [] → ∀ staging, exec (.frameWriteBegin c staging) s = .next (s.settleCtx c)) ∧
    (∀ b behind, x.cap.queue = b :: behind →
      let scan := f.scan.getD 0
      let gap : Bool :=
        match x.cap.lastWritten with
        | some n => scan != n + 1
        | none => scan != 0
      let takes := (b.opened = true ∧ b.due = none ∧ size ≤ b.length - b.used) ∨
        (b.opened = false ∧ x.cap.faultLimit ≠ some 0)
      (takes → exec (.frameWriteBegin c false) s = .next { s.setCtx c { x with cap := { x.cap with
          store := { f with gap := gap, cond := .writing } :: rest
          queue := { b with
            opened := true
            firstScan := if b.opened then b.firstScan else scan
            gap := b.gap || gap } :: behind
          writing := true
          lastWritten := some scan
          flushDeadline := none } } with
        link := { s.link with bus := { s.link.bus with
          class3 := s.link.bus.class3.set c.val (some ⟨b.address + BitVec.ofNat 64 b.used,
            ({ f with gap := gap } : Frame).bytes x.definition.format size⟩) } } }) ∧
      (takes → exec (.frameWriteBegin c true) s = .next { s with link := { s.link with
        device := .failed
        regs := { s.link.regs with
          intCause := if s.link.regs.intEnable then .failed else s.link.regs.intCause }
        bus := { s.link.bus with
          class1 := if s.link.regs.intEnable && s.link.endpoint.messages then [.message .failed] else []
          busy :=
            match s.link.bus.onLink with
            | some (.record _ _) => s.link.bus.busy
            | some (.message _ _) | some (.read _) | some (.frame _ _) | some (.report _) | none => false } } }) ∧
      (b.opened = true → b.due = none → b.length - b.used < size → ∀ staging,
        exec (.frameWriteBegin c staging) s = .next ((s.setCtx c { x with cap := { x.cap with
          queue := { b with due := some .filled } :: behind
          flushDeadline := none } }).settleCtx c)) ∧
      (b.opened = true → b.due ≠ none → ∀ staging, exec (.frameWriteBegin c staging) s = .next s) ∧
      (b.opened = false → x.cap.faultLimit = some 0 → ∀ staging,
        exec (.frameWriteBegin c staging) s = .next (s.settleCtx c)))

/-- FRAME_WRITE_END: the frame leaves the store and counts as delivered, the buffer it went into counts it, and the flush
timer starts if the buffer is not due; what is due is handed in. The flush of a context: nothing outside STOPPING or while
a frame is written; in a fault end with no buffer left within the limit the frames that wait are released and counted
dropped; with no frame left the open buffer becomes due PARTIAL; and with no frame left, no buffer open or due and none
on the return list, so with every retirement in the backlog, the fault limit becomes none. -/
def Obligations.FrameWriteEndDeliversAndFlushes : Prop :=
  (∀ (s : State) (c : CtxId) (w : FrameWrite) (f : Frame) (rest : List Frame),
    s.link.device = .online → s.link.bus.busy = true → s.link.bus.onLink = some (.frame c w) →
    let x := s.ctx c
    x.cap.writing = true → x.cap.store = f :: rest →
    let size := x.frameSize
    let run : Run := { x.run with
      delivered := x.run.delivered + 1
      historyDelivered := if f.history then x.run.historyDelivered + 1 else x.run.historyDelivered }
    let ends (cap : Capture) : Prop :=
      exec .frameWriteEnd s = .next (({ s.setCtx c { x with run := run, cap := cap } with
        link := { s.link with bus := { s.link.bus with busy := false } } }).settleCtx c)
    (∀ b behind, x.cap.queue = b :: behind → b.opened = true →
      ends { x.cap with
        store := rest, writing := false
        queue := { b with used := b.used + size, frames := b.frames + 1 } :: behind
        flushDeadline :=
          if b.due = none then
            (if x.definition.flush = 0 then none
              else some (s.timeBase + BitVec.ofNat 64 (10000 * x.definition.flush)))
          else x.cap.flushDeadline }) ∧
    ((∀ b behind, x.cap.queue = b :: behind → b.opened = false) →
      ends { x.cap with
        store := rest, writing := false
        returns := x.cap.returns.map fun it =>
          match it with
          | .buffer b =>
            if b.opened then .buffer { b with used := b.used + size, frames := b.frames + 1 } else .buffer b
          | .command e a => .command e a })) ∧
  (∀ x : Ctx,
    let headClosed := ∀ b behind, x.cap.queue = b :: behind → b.opened = false ∧ b.due = none
    let returning := ∃ b, .buffer b ∈ x.cap.returns
    (x.state ≠ .stopping ∨ x.cap.writing = true → x.settled = x) ∧
    (x.state = .stopping → x.cap.writing = false →
      (∀ b behind, x.cap.store = [] → x.cap.queue = b :: behind → b.opened = true → b.due = none →
        x.settled = { x with cap := { x.cap with
          queue := { b with due := some .partial' } :: behind, flushDeadline := none } }) ∧
      (x.cap.store ≠ [] → x.cap.faultLimit = some 0 → headClosed →
        let dropped (limit : Option Nat) : Ctx := { x with
          run := { x.run with dropped := x.run.dropped + word x.cap.store.length }
          cap := { x.cap with store := [], faultLimit := limit } }
        (returning → x.settled = dropped (some 0)) ∧ (¬returning → x.settled = dropped none)) ∧
      (x.cap.store ≠ [] → x.cap.faultLimit ≠ some 0 → x.settled = x) ∧
      (x.cap.store = [] → headClosed → ¬returning →
        x.settled = { x with cap := { x.cap with faultLimit := none } }) ∧
      (x.cap.store = [] → headClosed → returning → x.settled = x) ∧
      (x.cap.store = [] → (∃ b behind, x.cap.queue = b :: behind ∧ b.due ≠ none) → x.settled = x)))

/-! ### Completions and the bus -/

/-- CLAIMANT_HANDED_IN on an ONLINE device with a backlog entry free: the claimant that has waited longest joins, and
what it leads to follows; with none waiting or no entry free nothing happens. A command is answered, and a BARRIER it held
back is answered behind it or waits behind the others. A notice joins. A STOP or ABORT of an answered run joins, then the
next, and after the last the run end is given to the outputs. A context hands in the first buffer of its return list, the
command that waits behind the returned buffers, the buffer due at the head of its queue, or the ARM of its ended run. The
order of what follows is log 14, that a command stands in the return list is log 15, and that what a context's claim hands
in is read when its turn comes is log 23. That the outputs take the run end in the very event of its last completion, of
the last STOP or ABORT or of the ARM with none kept, is the model's choice (log 33). -/
def Obligations.LongestWaitingClaimantIsHandedIn : Prop :=
  (∀ s : State, s.cpl.claimants = [] ∨ 32 ≤ s.cpl.backlog.length → exec .claimantHandedIn s = .next s) ∧
  (∀ (s : State) (claim : Claim) (rest : List Claim),
    s.link.device = .online → s.cpl.claimants = claim :: rest → s.cpl.backlog.length < 32 →
    let u : State := { s with cpl := { s.cpl with claimants := rest } }
    let push (t : State) (m : Completion) : State :=
      { t with cpl := { t.cpl with backlog := t.cpl.backlog ++ [m] } }
    let goesTo (t : State) : Prop := exec .claimantHandedIn s = .next t
    let runEnds (t : State) (c : CtxId) : State := { t with outs := s.outs.map fun o => outputAfter o .runEnd c }
    (∀ p a, claim = .command p.age a → s.entry? p.age = some p →
      (barriersBehind s p = [] → goesTo (answeredBy u p a)) ∧
      (∀ b, barriersBehind s p = [b.age] → s.entry? b.age = some b →
        ∃ t, goesTo t ∧ Answered (answeredBy u p a) t b (answer .ok 0 0 0) ∧ t.apart = s.apart)) ∧
    (∀ n ring head w0 w1, claim = .notice n ring head w0 w1 →
      goesTo (push u ⟨.notice n, ring, 0, 0, head, w0, w1, 0, s.timeBase.setWidth 48⟩)) ∧
    (∀ c p a more, claim = .runTail c (⟨p.age, a⟩ :: more) → s.entry? p.age = some p →
      (more ≠ [] → goesTo ((answeredBy u p a).handIn (.runTail c more :: barrierClaims s p))) ∧
      (more = [] →
        goesTo ((runEnds (answeredBy u p a) c).handIn (runEventClaims s .runEnd c ++ barrierClaims s p)))) ∧
    (∀ c, claim = .context c →
      let x := s.ctx c
      let pulsing (l : Line) : Line :=
        if l.mode = .event c .bufferRetired then { l with pulseEnd := some (s.timeBase + 10) } else l
      let given (y : Ctx) (b : Buffer) (st : BufferStatus) : State := push { u.setCtx c y with
          lines := { s.lines with lines := s.lines.lines.map pulsing } }
        ⟨.buffer st, b.ring, BitVec.ofNat 8 c.val, b.tag, 0, word b.used, b.firstScan,
          (word b.frames &&& 0xFFFFF) ||| (if b.gap then 0x80000000 else 0), s.timeBase.setWidth 48⟩
      (∀ b behind status, x.cap.returns = .buffer b :: behind → b.due = some status →
        ¬(status = .aborted ∧ x.cap.writing = true) →
        let left : Ctx := { x with cap := { x.cap with returns := behind } }
        let t := given left.settled b status
        goesTo (t.handIn (t.contextClaim c))) ∧
      (∀ p a behind, x.cap.returns = .command p.age a :: behind → s.entry? p.age = some p →
        let t := answeredBy (u.setCtx c { x with cap := { x.cap with returns := behind } }) p a
        goesTo (t.handIn (t.contextClaim c ++ barrierClaims s p))) ∧
      (∀ b later status, x.cap.returns = [] → x.cap.queue = b :: later → b.due = some status →
        let left : Ctx := { x with cap := { x.cap with
          queue := later, faultLimit := x.cap.faultLimit.map (· - 1) } }
        let t := given left.settled b status
        goesTo (t.handIn (t.contextClaim c))) ∧
      (∀ p reason, x.cap.returns = [] → (∀ b later, x.cap.queue = b :: later → b.due = none) →
        x.run.endReason = some reason → x.run.armEntry = some p.age → s.entry? p.age = some p →
        (x.state = .armed ∨ x.state = .stopping) → x.cap.store = [] → x.cap.writing = false →
        s.holdsConverter c = false →
        let t := (answeredBy u p ⟨.run reason, x.run.delivered, x.run.dropped,
            (x.run.discarded &&& 0xFFFF) ||| (x.run.historyDelivered &&& 0xFF) <<< 16 |||
              word (min x.run.slips.toNat 255) <<< 24, none⟩).setCtx c { x with
          state := if reason = .overrun ∨ reason = .pacingOverrun then .halted else .ready
          run := { x.run with endReason := none, armEntry := none, stops := [], aborts := [] } }
        let tail : List TailItem :=
          x.run.stops.map (fun e =>
            ⟨e, answer (if reason = .aborted then .overtaken else .ok) (word reason.code) 0 0⟩) ++
            x.run.aborts.map fun e => ⟨e, answer .ok 0 0 0⟩
        (tail = [] → goesTo ((runEnds t c).handIn (runEventClaims s .runEnd c ++ barrierClaims s p))) ∧
        (tail ≠ [] → goesTo (t.handIn (.runTail c tail :: barrierClaims s p))))))

/-- COMPLETION_WRITE_BEGIN and COMPLETION_WRITE_DONE, and FIRST_UNSIGNALLED_DEADLINE: one record at a time, oldest first,
at base + 32 × tail with the present phase, while the ring is not full; when it has been sent it leaves the backlog, the
tail advances, the phase inverts on a wrap, and coalescing counts it and may send a message; the deadline sends TIME.
Which of COUNT and TIME is taken first at one instant is the operand (log 11). That the
deadline brings the time base to its instant is log 3. -/
def Obligations.RecordsAreWrittenInTurnAndSignalled : Prop :=
  ∀ (s : State) (m : Completion) (rest : List Completion) (first : Bool),
    s.link.device = .online →
    let full := (s.cpl.tail + 1) % s.cpl.size = s.cpl.head
    let tail := (s.cpl.tail + 1) % s.cpl.size
    let counted : HostLink := { s.link with
      unsignalled := min 64 (s.link.unsignalled + 1)
      deadline :=
        match s.link.deadline with
        | some d => some d
        | none => some (s.timeBase + BitVec.ofNat 64 (10 * s.link.regs.intTime.toNat))
      bus := { s.link.bus with busy := false } }
    let late : Bool :=
      match counted.deadline with
      | some d => d.toNat ≤ s.timeBase.toNat
      | none => false
    let reached := s.link.regs.intEnable = true ∧ s.link.regs.intCount.toNat ≤ counted.unsignalled
    let sent (h : HostLink) : State := { s with
      link := h
      cpl := { s.cpl with
        backlog := s.cpl.backlog.tail, tail := tail, writing := false
        phase := if tail = 0 then !s.cpl.phase else s.cpl.phase } }
    (s.cpl.backlog = m :: rest → s.cpl.writing = false → ¬full →
      exec .completionWriteBegin s = .next { s with
        cpl := { s.cpl with writing := true }
        link := { s.link with bus := { s.link.bus with class1 := s.link.bus.class1 ++
          [.record (s.cpl.base + BitVec.ofNat 64 (32 * s.cpl.tail)) (m.record s.cpl.phase)] } } }) ∧
    (s.cpl.backlog = [] ∨ s.cpl.writing = true ∨ full → exec .completionWriteBegin s = .next s) ∧
    (∀ a bytes, s.link.bus.busy = true → s.link.bus.onLink = some (.record a bytes) →
      (reached → exec (.completionWriteDone first) s =
        .next (sent (messageOf counted (if first && late then .time else .count)))) ∧
      (¬reached → exec (.completionWriteDone first) s = .next (sent counted))) ∧
    (∀ d, s.link.deadline = some d → s.link.regs.intEnable = true →
      exec .firstUnsignalledDeadline s = .next { s with
        timeBase := if d.toNat ≤ s.timeBase.toNat then s.timeBase else d
        link := messageOf s.link .time }) ∧
    (s.link.deadline = none ∨ s.link.regs.intEnable = false → exec .firstUnsignalledDeadline s = .next s)

/-- The bytes the part writes, at their offsets: a completion record of 32 bytes with the numbers of kinds, statuses and
end reasons; a PACKED and a FRAMED frame; and the 512 bytes of a REPORT snapshot, with its rings and contexts. -/
def Obligations.WrittenStructuresByOffset : Prop :=
  (∀ (m : Completion) (phase : Bool),
    let r := m.record phase
    let kind : Nat :=
      match m.status with
      | .command _ => 1
      | .run _ => 1
      | .buffer _ => 2
      | .limit _ => 3
      | .notice _ => 4
    let codes : List (CplStatus × Nat) :=
      ([Status.ok, .badOpcode, .wrongRing, .badContext, .badParam, .badAddress, .badRing, .ringBusy, .badState,
        .channelInUse, .lineInUse, .poolFull, .stagingFull, .stagingShort, .queueFull, .bufferTooSmall, .buffersHeld,
        .periodShort, .settleShort, .pairConflict, .lineMode, .calibrating, .converterBusy, .calFailed, .badStep,
        .fetchError, .aborted, .overtaken, .superseded, .cancelled].mapIdx fun i s => (.command s, i)) ++
      ([EndReason.countDone, .stopTrigger, .stopped, .aborted, .triggerTimeout, .overrun, .pacingOverrun].mapIdx
        fun i e => (.run e, 64 + i)) ++
      ([BufferStatus.filled, .partial', .aborted, .unused].mapIdx fun i b => (.buffer b, 1 + i)) ++
      ([LimitState.inside, .above, .below].mapIdx fun i l => (.limit l, 1 + i)) ++
      ([NoticeStatus.indexError, .fetchError].mapIdx fun i n => (.notice n, 1 + i))
    r.length = 32 ∧ FieldAt r 0 4 m.tag ∧ FieldAt r 4 4 m.w0 ∧ FieldAt r 8 4 m.w1 ∧ FieldAt r 12 4 m.w2 ∧
    FieldAt r 16 6 m.stamp ∧ FieldAt r 22 2 (BitVec.ofNat 16 m.subHead) ∧ FieldAt r 24 1 (BitVec.ofNat 8 kind) ∧
    (∀ e ∈ codes, m.status = e.1 → FieldAt r 25 1 (BitVec.ofNat 8 e.2)) ∧
    FieldAt r 26 1 (BitVec.ofNat 8 m.ring.val) ∧ FieldAt r 27 1 m.context ∧ FieldAt r 28 3 (0 : BitVec 24) ∧
    FieldAt r 31 1 (BitVec.ofNat 8 phase.toNat)) ∧
  (∀ (f : Frame) (size : Nat),
    let packed := f.bytes .packed size
    let framed := f.bytes .framed size
    packed.length = 2 * f.samples.length ∧
    (∀ p code, f.samples[p]? = some code → FieldAt packed (2 * p) 2 code) ∧
    (16 + 2 * f.samples.length ≤ size →
      framed.length = size ∧ FieldAt framed 0 4 (f.scan.getD 0) ∧ FieldAt framed 4 6 f.firstTick ∧
      FieldAt framed 10 2 f.lines ∧ FieldAt framed 12 1 (BitVec.ofNat 8 (f.history.toNat + 2 * f.gap.toNat)) ∧
      FieldAt framed 13 3 (0 : BitVec 24) ∧
      (∀ p code, f.samples[p]? = some code → FieldAt framed (16 + 2 * p) 2 code) ∧
      (∀ i, 16 + 2 * f.samples.length ≤ i → i < size → FieldAt framed i 1 (0 : Byte)))) ∧
  (∀ s : State,
    let r := s.reportBytes
    let number {w : Nat} (offset length : Nat) (n : Nat) : Prop := FieldAt r offset length (BitVec.ofNat w n)
    r.length = 512 ∧ FieldAt r 0 4 (s.readRegister 0x08) ∧ FieldAt r 4 4 (0 : Word) ∧ FieldAt r 8 8 s.timeBase ∧
    (∀ n : RingId,
      let q := s.ring n
      let entry := 16 + 8 * n.val
      number (w := 8) entry 1 (match q.state with
        | .absent => 0
        | .active => 1
        | .halted => 2) ∧
      number (w := 8) (entry + 1) 1 q.weight ∧ number (w := 16) (entry + 2) 2 q.size ∧
      number (w := 16) (entry + 4) 2 q.head ∧ number (w := 16) (entry + 6) 2 q.tail) ∧
    number (w := 8) 56 1 s.intake.table.length ∧ number (w := 8) 57 1 s.cpl.backlog.length ∧
    number (w := 8) 58 1 (match s.conv.source with
      | .factory => 1
      | .calibrated => 2
      | .default => 3) ∧
    number (w := 8) 59 1 (64 - (s.ctxs.toList.map fun x => x.cap.quota).sum) ∧
    number (w := 16) 60 2 (256 - (s.ctxs.toList.map fun x => x.slots).sum) ∧ FieldAt r 62 2 (0 : Half) ∧
    FieldAt r 64 4 (s.counter 0).count ∧ FieldAt r 68 4 (s.counter 1).count ∧
    FieldAt r 72 2 (BitVec.ofFnLE fun l : Fin 16 => s.lineLevel l) ∧
    FieldAt r 74 2 (s.out 0).code ∧ FieldAt r 76 2 (s.out 1).code ∧ FieldAt r 78 2 (0 : Half) ∧
    (∀ c : CtxId,
      let x := s.ctx c
      let entry := 80 + 48 * c.val
      number (w := 8) entry 1 (match x.state with
        | .unbound => 0
        | .defined => 1
        | .loading => 2
        | .ready => 3
        | .armed => 4
        | .running => 5
        | .stopping => 6
        | .halted => 7) ∧
      number (w := 8) (entry + 1) 1 x.cap.quota ∧ number (w := 8) (entry + 2) 1 x.cap.queue.length ∧
      number (w := 8) (entry + 3) 1 x.slots ∧ number (w := 16) (entry + 4) 2 x.cap.store.length ∧
      FieldAt r (entry + 6) 2 (0 : Half) ∧ FieldAt r (entry + 8) 4 x.run.numbered ∧
      FieldAt r (entry + 12) 4 x.run.delivered ∧ FieldAt r (entry + 16) 4 x.run.dropped ∧
      FieldAt r (entry + 20) 4 x.run.discarded ∧ FieldAt r (entry + 24) 4 x.run.slips ∧
      FieldAt r (entry + 28) 4 x.run.historyDelivered ∧ FieldAt r (entry + 32) 4 x.run.nextScan ∧
      number (w := 8) (entry + 36) 1 (match x.run.endReason with
        | none => 0
        | some .countDone => 64
        | some .stopTrigger => 65
        | some .stopped => 66
        | some .aborted => 67
        | some .triggerTimeout => 68
        | some .overrun => 69
        | some .pacingOverrun => 70) ∧
      FieldAt r (entry + 37) 11 (0 : BitVec 88)) ∧
    FieldAt r 464 48 (0 : BitVec 384))

/-- BUS_TRANSFER_SEND: the lowest-numbered class that holds a transfer is served, class 3 in round robin from the context
after the last served; a write takes the link, a read's request and a message do not. Without an operating link, the
permission, or a free link nothing is sent; FAILED sends its message only. What class 1 holds and that a message is sent
whole is log 19. That a message that waits goes out whatever the endpoint's message enable is by then, and to the address
held as it is sent, is the model's choice (log 32). -/
def Obligations.BusServesTheLowestClass : Prop :=
  ∀ s : State,
    let b := s.link.bus
    let can := s.link.operating = true ∧ s.link.endpoint.busMaster = true ∧ b.busy = false
    let sends (x : Bus) : Prop := exec .busTransferSend s = .next { s with link := { s.link with bus := x } }
    (¬can ∨ s.link.device = .offline → exec .busTransferSend s = .next s) ∧
    (can → s.link.device = .online →
      (∀ a bytes rest, b.class1 = .record a bytes :: rest →
        sends { b with class1 := rest, onLink := some (.record a bytes), busy := true }) ∧
      (∀ cause rest, b.class1 = .message cause :: rest →
        sends { b with class1 := rest, onLink := some (.message cause s.link.endpoint.address) }) ∧
      (∀ r rest, b.class1 = [] → b.class2 = r :: rest →
        sends { b with
          class2 := rest, onLink := some (.read r), outstanding := b.outstanding ++ [⟨r, s.timeBase⟩] }) ∧
      (∀ k < 8, b.class1 = [] → b.class2 = [] →
        let nth (j : Nat) : CtxId := Fin.ofNat 8 (b.lastServed.val + 1 + j)
        ∀ w, b.class3[(nth k).val] = some w → (∀ j < k, b.class3[(nth j).val] = none) →
        sends { b with
          class3 := b.class3.set (nth k).val none, lastServed := nth k
          onLink := some (.frame (nth k) w), busy := true }) ∧
      (∀ w rest, b.class1 = [] → b.class2 = [] → (∀ c : CtxId, b.class3[c.val] = none) → b.class4 = w :: rest →
        sends { b with class4 := rest, onLink := some (.report w), busy := true }) ∧
      (b.class1 = [] → b.class2 = [] → (∀ c : CtxId, b.class3[c.val] = none) → b.class4 = [] → sends b)) ∧
    (can → s.link.device = .failed →
      (∀ rest, b.class1 = .message .failed :: rest →
        sends { b with class1 := rest, onLink := some (.message .failed s.link.endpoint.address) }) ∧
      ((∀ rest, b.class1 ≠ .message .failed :: rest) → exec .busTransferSend s = .next s))

/-! ### Lines, counters and outputs -/

/-- The level of a line by its mode, and the snapshot of the sixteen levels. SET_LINES: the first line that fails a check
of R165 gives the status and its number, and no line changes; with none every flagged line takes its setting at once, and
the words give the snapshot and the number of lines changed. A setting's mode byte, level and nibbles are those of R197.
That a line set to INPUT takes the level held for its input is log 7. -/
def Obligations.SetLinesByItsChecks : Prop :=
  (∀ (s : State) (l : LineId),
    ((s.line l).mode = .input → s.lineLevel l = (s.line l).seen) ∧
    (∀ level, (s.line l).mode = .output level → s.lineLevel l = level) ∧
    (∀ c, (s.line l).mode = .event c .runActive →
      (s.lineLevel l = true ↔ (s.ctx c).state = .running ∨ (s.ctx c).state = .stopping)) ∧
    (∀ c, (s.line l).mode = .event c .scanStart ∨ (s.line l).mode = .event c .bufferRetired →
      (s.lineLevel l = true ↔ ∃ t, (s.line l).pulseEnd = some t)) ∧
    s.lineSnapshot.getLsbD l.val = s.lineLevel l) ∧
  (∀ (s : State) (flags : Half) (settings : List Half) (p : PendingEntry),
    Taken s 0 (.setLines flags settings) p →
    let u := s.takeDispatched 0
    let setting (l : LineId) : Half := settings.getD l.val 0
    let modeOf (v : Half) : Option LineMode :=
      let mode := v.toNat % 256
      let second := v.toNat / 256
      let source : CtxId := Fin.ofNat 8 (second % 16)
      if mode = 1 ∧ second = 0 then some .input
      else if mode = 2 ∧ second = 0 then some (.output false)
      else if mode = 2 ∧ second = 1 then some (.output true)
      else if mode = 3 ∧ second % 16 < 8 ∧ second / 16 = 1 then some (.event source .runActive)
      else if mode = 3 ∧ second % 16 < 8 ∧ second / 16 = 2 then some (.event source .scanStart)
      else if mode = 3 ∧ second % 16 < 8 ∧ second / 16 = 3 then some (.event source .bufferRetired)
      else none
    let fails (l : LineId) (st : Status) : Prop :=
      (flags.getLsbD l.val = false ∧ setting l ≠ 0 ∧ st = .badParam) ∨
      (flags.getLsbD l.val = true ∧ modeOf (setting l) = none ∧ st = .badParam) ∨
      (flags.getLsbD l.val = true ∧ st = .lineInUse ∧ s.lineInUse l = true ∧
        ∃ m, modeOf (setting l) = some m ∧ m ≠ .input)
    let after (l : LineId) : Line :=
      match flags.getLsbD l.val, modeOf (setting l) with
      | true, some m =>
        if (s.line l).mode = m then s.line l
        else ⟨m, if m = .input then s.lines.pins.getLsbD l.val else false, none⟩
      | _, _ => s.line l
    let changed := (List.finRange 16).filter fun l => (s.line l).mode != (after l).mode
    let w : State := { u with lines := { s.lines with lines := Vector.ofFn fun l : Fin 16 => after l } }
    (∀ l st, fails l st → (∀ l' < l, ∀ st', ¬fails l' st') →
      Completes s (.setLines flags settings) p (answer st (word l.val) 0 0) u) ∧
    ((∀ l st, ¬fails l st) →
      Completes s (.setLines flags settings) p
        (answer .ok (w.lineSnapshot.setWidth 32) (word changed.length) 0) w))

/-- SET_COUNTER: the first check of R171 that fails gives the status; with none the counter takes its source and counts
from 0, and the words give the count just before and the old source, 255 for NONE. -/
def Obligations.SetCounterByItsChecks : Prop :=
  ∀ (s : State) (counter source edge : Byte) (p : PendingEntry),
    Taken s 0 (.setCounter counter source edge) p →
    let u := s.takeDispatched 0
    let st : Status :=
      if counter ≠ 0 ∧ counter ≠ 1 then .badParam
      else if source ≠ 255 ∧ 15 < source.toNat then .badParam
      else if source ≠ 255 ∧ edge ≠ 1 ∧ edge ≠ 2 then .badParam
      else if source = 255 ∧ edge ≠ 0 then .badParam
      else if source ≠ 255 ∧ (s.line (Fin.ofNat 16 source.toNat)).mode ≠ .input then .lineMode
      else .ok
    let k : Fin 2 := if counter = 0 then 0 else 1
    let old := s.counter k
    let new : Option (LineId × Edge) :=
      if source = 255 then none else some (Fin.ofNat 16 source.toNat, if edge = 1 then .rising else .falling)
    (st ≠ .ok → Completes s (.setCounter counter source edge) p (answer st 0 0 0) u) ∧
    (st = .ok →
      Completes s (.setCounter counter source edge) p
        (answer .ok old.count
          (match old.source with
            | some (l, _) => word l.val
            | none => 255) 0)
        { u with lines := { s.lines with counters := s.lines.counters.set k.val ⟨new, 0⟩ } })

/-- SET_OUTPUT: the first check of R174 that fails gives the status and disturbs nothing; with none the pending update is
superseded and answered first, and the code is applied now, or held for the context's run event. -/
def Obligations.SetOutputByItsChecks : Prop :=
  ∀ (s : State) (src : RingId) (c : CtxId) (output kind : Byte) (code : Half) (p : PendingEntry),
    Taken s src (.setOutput c output kind code) p →
    let u := s.takeDispatched src
    let st : Status :=
      if output ≠ 0 ∧ output ≠ 1 then .badParam
      else if kind ≠ 0 ∧ kind ≠ 1 ∧ kind ≠ 2 then .badParam
      else if kind = 0 ∧ c ≠ 0 then .badParam
      else if kind ≠ 0 ∧ (s.ctx c).state = .unbound then .badState
      else .ok
    let n : Fin 2 := if output = 0 then 0 else 1
    let old := s.out n
    let superseded : List Claim :=
      match old.update with
      | some d => [.command d.entry
          (answer .superseded (word n.val) (d.code.setWidth 32) (old.code.setWidth 32))]
      | none => []
    let set (o : Output) : State := { u with outs := s.outs.set n.val o }
    (st ≠ .ok → Completes s (.setOutput src c output kind code) p (answer st 0 0 0) u) ∧
    (st = .ok → kind = 0 →
      exec (.setOutput src c output kind code) s = .next ((set ⟨code, none⟩).handIn (superseded ++
        [.command p.age ⟨.command .ok, word n.val, code.setWidth 32, old.code.setWidth 32, some s.timeBase⟩]))) ∧
    (st = .ok → kind ≠ 0 →
      exec (.setOutput src c output kind code) s = .next
        ((set ⟨old.code, some ⟨code, if kind = 1 then .runStart else .runEnd, c, p.age⟩⟩).handIn superseded))

/-- LINE_EDGE: only a change of level on a line in INPUT mode is an edge. It goes to the counters whose source matches
and to each context: as the stop trigger alone, which ends the run STOP_TRIGGER as a STOP would by mode and tick state
(R78), or as the start trigger and then as a tick. In FAILED it is seen and goes to none (R161). The order is an operand
(log 11), and so is when the readings of the event are taken (log 29), but that a count read in the scan which the edge
begins after starting its own run is never from before that run's zeroing (R108, R172); the input levels are held for the
model (log 7). -/
def Obligations.LineEdgeGoesToCountersAndContexts : Prop :=
  ∀ (s : State) (l : LineId) (level : Bool) (order : List EdgeTaker) (read : ReadOrder) (c : CtxId),
    let e : Edge := if level then .rising else .falling
    let pins : Half := BitVec.ofFnLE fun k : Fin 16 => if k = l then level else s.lines.pins.getLsbD k.val
    let u : State := { s with lines := { s.lines with pins := pins } }
    let seen : State := u.setLine l { s.line l with seen := level }
    let take (t : State) (x : EdgeTaker) : State :=
      match x with
      | .counter k =>
        if (t.counter k).source = some (l, e) then
          { t with lines := { t.lines with
            counters := t.lines.counters.set k.val { t.counter k with count := (t.counter k).count + 1 } } }
        else t
      | .context d => if s.link.device = .online then t.edgeForContext l e d else t
    let edge := (s.line l).mode = .input ∧ (s.line l).seen ≠ level
    let x := s.ctx c
    let stops := x.pacing.watcher = .stop ∧ x.definition.stop = .line l e
    let ended : Run := { x.run with endReason := some .stopTrigger }
    let filling : Bool := x.cap.store.any fun f => f.cond == .filling
    let history : Bool := x.cap.store.any fun f => f.cond == .filling && f.history
    let goesTo (run : Run) (store : List Frame) : Prop := s.edgeForContext l e c = (s.setCtx c { x with
      state := .stopping, run := run, pacing := pacingOver x.pacing, cap := { x.cap with store := store } }).settleCtx c
    (order.Nodup → (∀ x ∈ EdgeTaker.all, x ∈ order) → completeOrder EdgeTaker.all order = order) ∧
    (¬edge → exec (.lineEdge l level order read) s = .next u) ∧
    (edge → s.link.device = .failed → exec (.lineEdge l level order read) s = .next seen) ∧
    (edge → s.link.device ≠ .failed →
      exec (.lineEdge l level order read) s =
        .next (readInOrder read s ((completeOrder EdgeTaker.all order).foldl take seen))) ∧
    (stops → x.definition.mode = .step → filling = true →
      goesTo { ended with discarded := x.run.discarded + 1 } (withoutFilling x.cap.store)) ∧
    (stops → x.definition.mode = .step → filling = false → goesTo ended x.cap.store) ∧
    (stops → x.definition.mode = .scan → x.pacing.tick = .latched →
      goesTo { ended with
        numbered := x.run.numbered - 1
        nextScan := x.run.nextScan - 1
        begun := if history then x.run.begun else x.run.begun - 1 } (withoutFilling x.cap.store)) ∧
    (stops → x.definition.mode = .scan → x.pacing.tick ≠ .latched → goesTo ended x.cap.store) ∧
    (¬stops →
      let t := if x.pacing.watcher = .start ∧ x.definition.start = .line l e then s.takeTrigger c else s
      s.edgeForContext l e c =
        if x.definition.source = .line l e then (t.deliverTick c).1.settleCtx c else t)

/-! ### What every step keeps -/

/-- Every step keeps the backlog and the pending table within their 32 entries. -/
def Obligations.StepKeepsCommandBounds : Prop :=
  ∀ s t : State, CommandBounds s → step s = .next t → CommandBounds t

/-- Every step keeps the Host Link's registers legal: the unsignalled count at most 64, the coalescing count from 1 to
64, CHECK from 0 to 6 and 0 while CONFIG_ERROR is 0. -/
def Obligations.StepKeepsRegisterBounds : Prop :=
  ∀ s t : State, RegisterBounds s → step s = .next t → RegisterBounds t

/-- Every step keeps the step pool within 256 slots, staging within 64 units and each queue within 16 buffers. -/
def Obligations.StepKeepsContextBounds : Prop :=
  ∀ s t : State, ContextBounds s → step s = .next t → ContextBounds t

/-- The state after power-on is within all these bounds. -/
def Obligations.PowerOnMeetsTheBounds : Prop :=
  CommandBounds State.reset ∧ RegisterBounds State.reset ∧ ContextBounds State.reset
end

