-- ==== Sys2Proof/Laws/State.lean ====
section
/-!
SUPPORT. What each plain update of `State` leaves in each of its fields, all by `rfl`, and reading one entry of a table
after another has been replaced. Later proofs rewrite with these and unfold no update.
-/

namespace Sys2Proof.Machine

open Sys2Proof

/-- Changing every entry of a table is `Vector.map`. -/
@[simp] theorem mapEach_eq {α β : Type} {n : Nat} (f : α → β) (v : Vector α n) : mapEach f v = v.map f := by
  apply Vector.ext
  intro i hi
  simp [mapEach]

variable (s : State)

/-! ### setCtx -/

@[simp] theorem State.setCtx_pending (c : CtxId) (x : Ctx) : (s.setCtx c x).pending = s.pending := rfl
@[simp] theorem State.setCtx_timeBase (c : CtxId) (x : Ctx) : (s.setCtx c x).timeBase = s.timeBase := rfl
@[simp] theorem State.setCtx_link (c : CtxId) (x : Ctx) : (s.setCtx c x).link = s.link := rfl
@[simp] theorem State.setCtx_intake (c : CtxId) (x : Ctx) : (s.setCtx c x).intake = s.intake := rfl
@[simp] theorem State.setCtx_cpl (c : CtxId) (x : Ctx) : (s.setCtx c x).cpl = s.cpl := rfl
@[simp] theorem State.setCtx_chans (c : CtxId) (x : Ctx) : (s.setCtx c x).chans = s.chans := rfl
@[simp] theorem State.setCtx_ctxs (c : CtxId) (x : Ctx) : (s.setCtx c x).ctxs = s.ctxs.set c.val x := rfl
@[simp] theorem State.setCtx_conv (c : CtxId) (x : Ctx) : (s.setCtx c x).conv = s.conv := rfl
@[simp] theorem State.setCtx_lines (c : CtxId) (x : Ctx) : (s.setCtx c x).lines = s.lines := rfl
@[simp] theorem State.setCtx_outs (c : CtxId) (x : Ctx) : (s.setCtx c x).outs = s.outs := rfl
@[simp] theorem State.setCtx_hostRead (c : CtxId) (x : Ctx) : (s.setCtx c x).hostRead = s.hostRead := rfl

/-! ### modCtx -/

@[simp] theorem State.modCtx_pending (c : CtxId) (f : Ctx → Ctx) : (s.modCtx c f).pending = s.pending := rfl
@[simp] theorem State.modCtx_timeBase (c : CtxId) (f : Ctx → Ctx) : (s.modCtx c f).timeBase = s.timeBase := rfl
@[simp] theorem State.modCtx_link (c : CtxId) (f : Ctx → Ctx) : (s.modCtx c f).link = s.link := rfl
@[simp] theorem State.modCtx_intake (c : CtxId) (f : Ctx → Ctx) : (s.modCtx c f).intake = s.intake := rfl
@[simp] theorem State.modCtx_cpl (c : CtxId) (f : Ctx → Ctx) : (s.modCtx c f).cpl = s.cpl := rfl
@[simp] theorem State.modCtx_chans (c : CtxId) (f : Ctx → Ctx) : (s.modCtx c f).chans = s.chans := rfl
@[simp] theorem State.modCtx_ctxs (c : CtxId) (f : Ctx → Ctx) :
    (s.modCtx c f).ctxs = s.ctxs.set c.val (f (s.ctx c)) := rfl
@[simp] theorem State.modCtx_conv (c : CtxId) (f : Ctx → Ctx) : (s.modCtx c f).conv = s.conv := rfl
@[simp] theorem State.modCtx_lines (c : CtxId) (f : Ctx → Ctx) : (s.modCtx c f).lines = s.lines := rfl
@[simp] theorem State.modCtx_outs (c : CtxId) (f : Ctx → Ctx) : (s.modCtx c f).outs = s.outs := rfl
@[simp] theorem State.modCtx_hostRead (c : CtxId) (f : Ctx → Ctx) : (s.modCtx c f).hostRead = s.hostRead := rfl

/-! ### setRing -/

@[simp] theorem State.setRing_pending (r : RingId) (x : Ring) : (s.setRing r x).pending = s.pending := rfl
@[simp] theorem State.setRing_timeBase (r : RingId) (x : Ring) : (s.setRing r x).timeBase = s.timeBase := rfl
@[simp] theorem State.setRing_link (r : RingId) (x : Ring) : (s.setRing r x).link = s.link := rfl
@[simp] theorem State.setRing_intake (r : RingId) (x : Ring) :
    (s.setRing r x).intake = { s.intake with rings := s.intake.rings.set r.val x } := rfl
@[simp] theorem State.setRing_cpl (r : RingId) (x : Ring) : (s.setRing r x).cpl = s.cpl := rfl
@[simp] theorem State.setRing_chans (r : RingId) (x : Ring) : (s.setRing r x).chans = s.chans := rfl
@[simp] theorem State.setRing_ctxs (r : RingId) (x : Ring) : (s.setRing r x).ctxs = s.ctxs := rfl
@[simp] theorem State.setRing_conv (r : RingId) (x : Ring) : (s.setRing r x).conv = s.conv := rfl
@[simp] theorem State.setRing_lines (r : RingId) (x : Ring) : (s.setRing r x).lines = s.lines := rfl
@[simp] theorem State.setRing_outs (r : RingId) (x : Ring) : (s.setRing r x).outs = s.outs := rfl
@[simp] theorem State.setRing_hostRead (r : RingId) (x : Ring) : (s.setRing r x).hostRead = s.hostRead := rfl

/-! ### setChan -/

@[simp] theorem State.setChan_pending (n : ChanId) (x : Channel) : (s.setChan n x).pending = s.pending := rfl
@[simp] theorem State.setChan_timeBase (n : ChanId) (x : Channel) : (s.setChan n x).timeBase = s.timeBase := rfl
@[simp] theorem State.setChan_link (n : ChanId) (x : Channel) : (s.setChan n x).link = s.link := rfl
@[simp] theorem State.setChan_intake (n : ChanId) (x : Channel) : (s.setChan n x).intake = s.intake := rfl
@[simp] theorem State.setChan_cpl (n : ChanId) (x : Channel) : (s.setChan n x).cpl = s.cpl := rfl
@[simp] theorem State.setChan_chans (n : ChanId) (x : Channel) : (s.setChan n x).chans = s.chans.set n.val x := rfl
@[simp] theorem State.setChan_ctxs (n : ChanId) (x : Channel) : (s.setChan n x).ctxs = s.ctxs := rfl
@[simp] theorem State.setChan_conv (n : ChanId) (x : Channel) : (s.setChan n x).conv = s.conv := rfl
@[simp] theorem State.setChan_lines (n : ChanId) (x : Channel) : (s.setChan n x).lines = s.lines := rfl
@[simp] theorem State.setChan_outs (n : ChanId) (x : Channel) : (s.setChan n x).outs = s.outs := rfl
@[simp] theorem State.setChan_hostRead (n : ChanId) (x : Channel) : (s.setChan n x).hostRead = s.hostRead := rfl

/-! ### setLine -/

@[simp] theorem State.setLine_pending (l : LineId) (x : Line) : (s.setLine l x).pending = s.pending := rfl
@[simp] theorem State.setLine_timeBase (l : LineId) (x : Line) : (s.setLine l x).timeBase = s.timeBase := rfl
@[simp] theorem State.setLine_link (l : LineId) (x : Line) : (s.setLine l x).link = s.link := rfl
@[simp] theorem State.setLine_intake (l : LineId) (x : Line) : (s.setLine l x).intake = s.intake := rfl
@[simp] theorem State.setLine_cpl (l : LineId) (x : Line) : (s.setLine l x).cpl = s.cpl := rfl
@[simp] theorem State.setLine_chans (l : LineId) (x : Line) : (s.setLine l x).chans = s.chans := rfl
@[simp] theorem State.setLine_ctxs (l : LineId) (x : Line) : (s.setLine l x).ctxs = s.ctxs := rfl
@[simp] theorem State.setLine_conv (l : LineId) (x : Line) : (s.setLine l x).conv = s.conv := rfl
@[simp] theorem State.setLine_lines (l : LineId) (x : Line) :
    (s.setLine l x).lines = { s.lines with lines := s.lines.lines.set l.val x } := rfl
@[simp] theorem State.setLine_outs (l : LineId) (x : Line) : (s.setLine l x).outs = s.outs := rfl
@[simp] theorem State.setLine_hostRead (l : LineId) (x : Line) : (s.setLine l x).hostRead = s.hostRead := rfl

/-! ### setOut -/

@[simp] theorem State.setOut_pending (o : Fin 2) (x : Output) : (s.setOut o x).pending = s.pending := rfl
@[simp] theorem State.setOut_timeBase (o : Fin 2) (x : Output) : (s.setOut o x).timeBase = s.timeBase := rfl
@[simp] theorem State.setOut_link (o : Fin 2) (x : Output) : (s.setOut o x).link = s.link := rfl
@[simp] theorem State.setOut_intake (o : Fin 2) (x : Output) : (s.setOut o x).intake = s.intake := rfl
@[simp] theorem State.setOut_cpl (o : Fin 2) (x : Output) : (s.setOut o x).cpl = s.cpl := rfl
@[simp] theorem State.setOut_chans (o : Fin 2) (x : Output) : (s.setOut o x).chans = s.chans := rfl
@[simp] theorem State.setOut_ctxs (o : Fin 2) (x : Output) : (s.setOut o x).ctxs = s.ctxs := rfl
@[simp] theorem State.setOut_conv (o : Fin 2) (x : Output) : (s.setOut o x).conv = s.conv := rfl
@[simp] theorem State.setOut_lines (o : Fin 2) (x : Output) : (s.setOut o x).lines = s.lines := rfl
@[simp] theorem State.setOut_outs (o : Fin 2) (x : Output) : (s.setOut o x).outs = s.outs.set o.val x := rfl
@[simp] theorem State.setOut_hostRead (o : Fin 2) (x : Output) : (s.setOut o x).hostRead = s.hostRead := rfl

/-! ### setCounter -/

@[simp] theorem State.setCounter_pending (k : Fin 2) (x : Counter) : (s.setCounter k x).pending = s.pending := rfl
@[simp] theorem State.setCounter_timeBase (k : Fin 2) (x : Counter) : (s.setCounter k x).timeBase = s.timeBase := rfl
@[simp] theorem State.setCounter_link (k : Fin 2) (x : Counter) : (s.setCounter k x).link = s.link := rfl
@[simp] theorem State.setCounter_intake (k : Fin 2) (x : Counter) : (s.setCounter k x).intake = s.intake := rfl
@[simp] theorem State.setCounter_cpl (k : Fin 2) (x : Counter) : (s.setCounter k x).cpl = s.cpl := rfl
@[simp] theorem State.setCounter_chans (k : Fin 2) (x : Counter) : (s.setCounter k x).chans = s.chans := rfl
@[simp] theorem State.setCounter_ctxs (k : Fin 2) (x : Counter) : (s.setCounter k x).ctxs = s.ctxs := rfl
@[simp] theorem State.setCounter_conv (k : Fin 2) (x : Counter) : (s.setCounter k x).conv = s.conv := rfl
@[simp] theorem State.setCounter_lines (k : Fin 2) (x : Counter) :
    (s.setCounter k x).lines = { s.lines with counters := s.lines.counters.set k.val x } := rfl
@[simp] theorem State.setCounter_outs (k : Fin 2) (x : Counter) : (s.setCounter k x).outs = s.outs := rfl
@[simp] theorem State.setCounter_hostRead (k : Fin 2) (x : Counter) : (s.setCounter k x).hostRead = s.hostRead := rfl

/-! ### The INT_ENABLE bit -/

@[simp] theorem HostLink.setIntEnable_regs (h : HostLink) (v : Bool) :
    (h.setIntEnable v).regs = { h.regs with intEnable := v } := rfl
@[simp] theorem HostLink.setIntEnable_device (h : HostLink) (v : Bool) : (h.setIntEnable v).device = h.device := rfl
@[simp] theorem HostLink.setIntEnable_operating (h : HostLink) (v : Bool) :
    (h.setIntEnable v).operating = h.operating := rfl
@[simp] theorem HostLink.setIntEnable_endpoint (h : HostLink) (v : Bool) :
    (h.setIntEnable v).endpoint = h.endpoint := rfl
@[simp] theorem HostLink.setIntEnable_unsignalled (h : HostLink) (v : Bool) :
    (h.setIntEnable v).unsignalled = h.unsignalled := rfl
@[simp] theorem HostLink.setIntEnable_deadline (h : HostLink) (v : Bool) :
    (h.setIntEnable v).deadline = h.deadline := rfl
@[simp] theorem HostLink.setIntEnable_failedOwed (h : HostLink) (v : Bool) :
    (h.setIntEnable v).failedOwed = h.failedOwed := rfl
@[simp] theorem HostLink.setIntEnable_bus_true (h : HostLink) : (h.setIntEnable true).bus = h.bus := rfl
@[simp] theorem HostLink.setIntEnable_bus_false (h : HostLink) : (h.setIntEnable false).bus = h.bus.dropMessages := rfl

/-- A write of INT_ENABLE changes the Host Link alone. -/
theorem State.writeIntEnable_link (v : Bool) :
    s.writeIntEnable v = { s with link := (s.writeIntEnable v).link } := rfl

/-! ### modRegs -/

@[simp] theorem State.modRegs_pending (f : Registers → Registers) : (s.modRegs f).pending = s.pending := rfl
@[simp] theorem State.modRegs_timeBase (f : Registers → Registers) : (s.modRegs f).timeBase = s.timeBase := rfl
@[simp] theorem State.modRegs_link (f : Registers → Registers) :
    (s.modRegs f).link = { s.link with regs := f s.link.regs } := rfl
@[simp] theorem State.modRegs_intake (f : Registers → Registers) : (s.modRegs f).intake = s.intake := rfl
@[simp] theorem State.modRegs_cpl (f : Registers → Registers) : (s.modRegs f).cpl = s.cpl := rfl
@[simp] theorem State.modRegs_chans (f : Registers → Registers) : (s.modRegs f).chans = s.chans := rfl
@[simp] theorem State.modRegs_ctxs (f : Registers → Registers) : (s.modRegs f).ctxs = s.ctxs := rfl
@[simp] theorem State.modRegs_conv (f : Registers → Registers) : (s.modRegs f).conv = s.conv := rfl
@[simp] theorem State.modRegs_lines (f : Registers → Registers) : (s.modRegs f).lines = s.lines := rfl
@[simp] theorem State.modRegs_outs (f : Registers → Registers) : (s.modRegs f).outs = s.outs := rfl
@[simp] theorem State.modRegs_hostRead (f : Registers → Registers) : (s.modRegs f).hostRead = s.hostRead := rfl

/-! ### modBus -/

@[simp] theorem State.modBus_pending (f : Bus → Bus) : (s.modBus f).pending = s.pending := rfl
@[simp] theorem State.modBus_timeBase (f : Bus → Bus) : (s.modBus f).timeBase = s.timeBase := rfl
@[simp] theorem State.modBus_link (f : Bus → Bus) : (s.modBus f).link = { s.link with bus := f s.link.bus } := rfl
@[simp] theorem State.modBus_intake (f : Bus → Bus) : (s.modBus f).intake = s.intake := rfl
@[simp] theorem State.modBus_cpl (f : Bus → Bus) : (s.modBus f).cpl = s.cpl := rfl
@[simp] theorem State.modBus_chans (f : Bus → Bus) : (s.modBus f).chans = s.chans := rfl
@[simp] theorem State.modBus_ctxs (f : Bus → Bus) : (s.modBus f).ctxs = s.ctxs := rfl
@[simp] theorem State.modBus_conv (f : Bus → Bus) : (s.modBus f).conv = s.conv := rfl
@[simp] theorem State.modBus_lines (f : Bus → Bus) : (s.modBus f).lines = s.lines := rfl
@[simp] theorem State.modBus_outs (f : Bus → Bus) : (s.modBus f).outs = s.outs := rfl
@[simp] theorem State.modBus_hostRead (f : Bus → Bus) : (s.modBus f).hostRead = s.hostRead := rfl

/-! ### modConv -/

@[simp] theorem State.modConv_pending (f : Conversion → Conversion) : (s.modConv f).pending = s.pending := rfl
@[simp] theorem State.modConv_timeBase (f : Conversion → Conversion) : (s.modConv f).timeBase = s.timeBase := rfl
@[simp] theorem State.modConv_link (f : Conversion → Conversion) : (s.modConv f).link = s.link := rfl
@[simp] theorem State.modConv_intake (f : Conversion → Conversion) : (s.modConv f).intake = s.intake := rfl
@[simp] theorem State.modConv_cpl (f : Conversion → Conversion) : (s.modConv f).cpl = s.cpl := rfl
@[simp] theorem State.modConv_chans (f : Conversion → Conversion) : (s.modConv f).chans = s.chans := rfl
@[simp] theorem State.modConv_ctxs (f : Conversion → Conversion) : (s.modConv f).ctxs = s.ctxs := rfl
@[simp] theorem State.modConv_conv (f : Conversion → Conversion) : (s.modConv f).conv = f s.conv := rfl
@[simp] theorem State.modConv_lines (f : Conversion → Conversion) : (s.modConv f).lines = s.lines := rfl
@[simp] theorem State.modConv_outs (f : Conversion → Conversion) : (s.modConv f).outs = s.outs := rfl
@[simp] theorem State.modConv_hostRead (f : Conversion → Conversion) : (s.modConv f).hostRead = s.hostRead := rfl

/-! ### advanceTo -/

@[simp] theorem State.advanceTo_pending (t : Time) : (s.advanceTo t).pending = s.pending := rfl
@[simp] theorem State.advanceTo_timeBase (t : Time) :
    (s.advanceTo t).timeBase = if timeReached s.timeBase t then s.timeBase else t := rfl
@[simp] theorem State.advanceTo_link (t : Time) : (s.advanceTo t).link = s.link := rfl
@[simp] theorem State.advanceTo_intake (t : Time) : (s.advanceTo t).intake = s.intake := rfl
@[simp] theorem State.advanceTo_cpl (t : Time) : (s.advanceTo t).cpl = s.cpl := rfl
@[simp] theorem State.advanceTo_chans (t : Time) : (s.advanceTo t).chans = s.chans := rfl
@[simp] theorem State.advanceTo_ctxs (t : Time) : (s.advanceTo t).ctxs = s.ctxs := rfl
@[simp] theorem State.advanceTo_conv (t : Time) : (s.advanceTo t).conv = s.conv := rfl
@[simp] theorem State.advanceTo_lines (t : Time) : (s.advanceTo t).lines = s.lines := rfl
@[simp] theorem State.advanceTo_outs (t : Time) : (s.advanceTo t).outs = s.outs := rfl
@[simp] theorem State.advanceTo_hostRead (t : Time) : (s.advanceTo t).hostRead = s.hostRead := rfl

/-! ### tickTime -/

@[simp] theorem State.tickTime_pending : (s.tickTime).pending = s.pending := rfl
@[simp] theorem State.tickTime_timeBase : (s.tickTime).timeBase = s.timeBase + 1 := rfl
@[simp] theorem State.tickTime_link : (s.tickTime).link = s.link := rfl
@[simp] theorem State.tickTime_intake : (s.tickTime).intake = s.intake := rfl
@[simp] theorem State.tickTime_cpl : (s.tickTime).cpl = s.cpl := rfl
@[simp] theorem State.tickTime_chans : (s.tickTime).chans = s.chans := rfl
@[simp] theorem State.tickTime_ctxs : (s.tickTime).ctxs = s.ctxs := rfl
@[simp] theorem State.tickTime_conv : (s.tickTime).conv = s.conv := rfl
@[simp] theorem State.tickTime_lines : (s.tickTime).lines = s.lines := rfl
@[simp] theorem State.tickTime_outs : (s.tickTime).outs = s.outs := rfl
@[simp] theorem State.tickTime_hostRead : (s.tickTime).hostRead = s.hostRead := rfl

/-! ### freeEntry -/

@[simp] theorem State.freeEntry_pending (id : Nat) : (s.freeEntry id).pending = s.pending := rfl
@[simp] theorem State.freeEntry_timeBase (id : Nat) : (s.freeEntry id).timeBase = s.timeBase := rfl
@[simp] theorem State.freeEntry_link (id : Nat) : (s.freeEntry id).link = s.link := rfl
@[simp] theorem State.freeEntry_intake (id : Nat) :
    (s.freeEntry id).intake = { s.intake with table := s.intake.table.filter fun e => e.age != id } := rfl
@[simp] theorem State.freeEntry_cpl (id : Nat) : (s.freeEntry id).cpl = s.cpl := rfl
@[simp] theorem State.freeEntry_chans (id : Nat) : (s.freeEntry id).chans = s.chans := rfl
@[simp] theorem State.freeEntry_ctxs (id : Nat) : (s.freeEntry id).ctxs = s.ctxs := rfl
@[simp] theorem State.freeEntry_conv (id : Nat) : (s.freeEntry id).conv = s.conv := rfl
@[simp] theorem State.freeEntry_lines (id : Nat) : (s.freeEntry id).lines = s.lines := rfl
@[simp] theorem State.freeEntry_outs (id : Nat) : (s.freeEntry id).outs = s.outs := rfl
@[simp] theorem State.freeEntry_hostRead (id : Nat) : (s.freeEntry id).hostRead = s.hostRead := rfl

/-! ### pushCompletion -/

@[simp] theorem State.pushCompletion_pending (m : Completion) : (s.pushCompletion m).pending = s.pending := rfl
@[simp] theorem State.pushCompletion_timeBase (m : Completion) : (s.pushCompletion m).timeBase = s.timeBase := rfl
@[simp] theorem State.pushCompletion_link (m : Completion) : (s.pushCompletion m).link = s.link := rfl
@[simp] theorem State.pushCompletion_intake (m : Completion) : (s.pushCompletion m).intake = s.intake := rfl
@[simp] theorem State.pushCompletion_cpl (m : Completion) :
    (s.pushCompletion m).cpl = { s.cpl with backlog := s.cpl.backlog ++ [m] } := rfl
@[simp] theorem State.pushCompletion_chans (m : Completion) : (s.pushCompletion m).chans = s.chans := rfl
@[simp] theorem State.pushCompletion_ctxs (m : Completion) : (s.pushCompletion m).ctxs = s.ctxs := rfl
@[simp] theorem State.pushCompletion_conv (m : Completion) : (s.pushCompletion m).conv = s.conv := rfl
@[simp] theorem State.pushCompletion_lines (m : Completion) : (s.pushCompletion m).lines = s.lines := rfl
@[simp] theorem State.pushCompletion_outs (m : Completion) : (s.pushCompletion m).outs = s.outs := rfl
@[simp] theorem State.pushCompletion_hostRead (m : Completion) : (s.pushCompletion m).hostRead = s.hostRead := rfl

/-! ### takeDispatched -/

@[simp] theorem State.takeDispatched_pending (r : RingId) : (s.takeDispatched r).pending = s.pending := rfl
@[simp] theorem State.takeDispatched_timeBase (r : RingId) : (s.takeDispatched r).timeBase = s.timeBase := rfl
@[simp] theorem State.takeDispatched_link (r : RingId) : (s.takeDispatched r).link = s.link := rfl
@[simp] theorem State.takeDispatched_intake (r : RingId) :
    (s.takeDispatched r).intake = { s.intake with dispatched := s.intake.dispatched.eraseP fun d => d.ring == r } := rfl
@[simp] theorem State.takeDispatched_cpl (r : RingId) : (s.takeDispatched r).cpl = s.cpl := rfl
@[simp] theorem State.takeDispatched_chans (r : RingId) : (s.takeDispatched r).chans = s.chans := rfl
@[simp] theorem State.takeDispatched_ctxs (r : RingId) : (s.takeDispatched r).ctxs = s.ctxs := rfl
@[simp] theorem State.takeDispatched_conv (r : RingId) : (s.takeDispatched r).conv = s.conv := rfl
@[simp] theorem State.takeDispatched_lines (r : RingId) : (s.takeDispatched r).lines = s.lines := rfl
@[simp] theorem State.takeDispatched_outs (r : RingId) : (s.takeDispatched r).outs = s.outs := rfl
@[simp] theorem State.takeDispatched_hostRead (r : RingId) : (s.takeDispatched r).hostRead = s.hostRead := rfl

/-! ### dropBarriers -/

@[simp] theorem State.dropBarriers_pending (done : List Nat) : (s.dropBarriers done).pending = s.pending := rfl
@[simp] theorem State.dropBarriers_timeBase (done : List Nat) : (s.dropBarriers done).timeBase = s.timeBase := rfl
@[simp] theorem State.dropBarriers_link (done : List Nat) : (s.dropBarriers done).link = s.link := rfl
@[simp] theorem State.dropBarriers_intake (done : List Nat) :
    (s.dropBarriers done).intake = { s.intake with barriers := s.intake.barriers.filter fun b => !done.contains b } := rfl
@[simp] theorem State.dropBarriers_cpl (done : List Nat) : (s.dropBarriers done).cpl = s.cpl := rfl
@[simp] theorem State.dropBarriers_chans (done : List Nat) : (s.dropBarriers done).chans = s.chans := rfl
@[simp] theorem State.dropBarriers_ctxs (done : List Nat) : (s.dropBarriers done).ctxs = s.ctxs := rfl
@[simp] theorem State.dropBarriers_conv (done : List Nat) : (s.dropBarriers done).conv = s.conv := rfl
@[simp] theorem State.dropBarriers_lines (done : List Nat) : (s.dropBarriers done).lines = s.lines := rfl
@[simp] theorem State.dropBarriers_outs (done : List Nat) : (s.dropBarriers done).outs = s.outs := rfl
@[simp] theorem State.dropBarriers_hostRead (done : List Nat) : (s.dropBarriers done).hostRead = s.hostRead := rfl

/-! ### wait -/

@[simp] theorem State.wait_pending (claims : List Claim) : (s.wait claims).pending = s.pending := rfl
@[simp] theorem State.wait_timeBase (claims : List Claim) : (s.wait claims).timeBase = s.timeBase := rfl
@[simp] theorem State.wait_link (claims : List Claim) : (s.wait claims).link = s.link := rfl
@[simp] theorem State.wait_intake (claims : List Claim) : (s.wait claims).intake = s.intake := rfl
@[simp] theorem State.wait_cpl (claims : List Claim) :
    (s.wait claims).cpl = { s.cpl with claimants := s.cpl.claimants ++ claims } := rfl
@[simp] theorem State.wait_chans (claims : List Claim) : (s.wait claims).chans = s.chans := rfl
@[simp] theorem State.wait_ctxs (claims : List Claim) : (s.wait claims).ctxs = s.ctxs := rfl
@[simp] theorem State.wait_conv (claims : List Claim) : (s.wait claims).conv = s.conv := rfl
@[simp] theorem State.wait_lines (claims : List Claim) : (s.wait claims).lines = s.lines := rfl
@[simp] theorem State.wait_outs (claims : List Claim) : (s.wait claims).outs = s.outs := rfl
@[simp] theorem State.wait_hostRead (claims : List Claim) : (s.wait claims).hostRead = s.hostRead := rfl

/-! ### dropClaimant -/

@[simp] theorem State.dropClaimant_pending : (s.dropClaimant).pending = s.pending := rfl
@[simp] theorem State.dropClaimant_timeBase : (s.dropClaimant).timeBase = s.timeBase := rfl
@[simp] theorem State.dropClaimant_link : (s.dropClaimant).link = s.link := rfl
@[simp] theorem State.dropClaimant_intake : (s.dropClaimant).intake = s.intake := rfl
@[simp] theorem State.dropClaimant_cpl :
    (s.dropClaimant).cpl = { s.cpl with claimants := s.cpl.claimants.tail } := rfl
@[simp] theorem State.dropClaimant_chans : (s.dropClaimant).chans = s.chans := rfl
@[simp] theorem State.dropClaimant_ctxs : (s.dropClaimant).ctxs = s.ctxs := rfl
@[simp] theorem State.dropClaimant_conv : (s.dropClaimant).conv = s.conv := rfl
@[simp] theorem State.dropClaimant_lines : (s.dropClaimant).lines = s.lines := rfl
@[simp] theorem State.dropClaimant_outs : (s.dropClaimant).outs = s.outs := rfl
@[simp] theorem State.dropClaimant_hostRead : (s.dropClaimant).hostRead = s.hostRead := rfl

/-! ### pulse -/

@[simp] theorem State.pulse_pending (c : CtxId) (k : EventKind) : (s.pulse c k).pending = s.pending := rfl
@[simp] theorem State.pulse_timeBase (c : CtxId) (k : EventKind) : (s.pulse c k).timeBase = s.timeBase := rfl
@[simp] theorem State.pulse_link (c : CtxId) (k : EventKind) : (s.pulse c k).link = s.link := rfl
@[simp] theorem State.pulse_intake (c : CtxId) (k : EventKind) : (s.pulse c k).intake = s.intake := rfl
@[simp] theorem State.pulse_cpl (c : CtxId) (k : EventKind) : (s.pulse c k).cpl = s.cpl := rfl
@[simp] theorem State.pulse_chans (c : CtxId) (k : EventKind) : (s.pulse c k).chans = s.chans := rfl
@[simp] theorem State.pulse_ctxs (c : CtxId) (k : EventKind) : (s.pulse c k).ctxs = s.ctxs := rfl
@[simp] theorem State.pulse_conv (c : CtxId) (k : EventKind) : (s.pulse c k).conv = s.conv := rfl
@[simp] theorem State.pulse_lines (c : CtxId) (k : EventKind) :
    (s.pulse c k).lines = { s.lines with lines := s.lines.lines.map (·.afterEvent c k s.timeBase) } := by
  rw [← mapEach_eq]
  rfl
@[simp] theorem State.pulse_outs (c : CtxId) (k : EventKind) : (s.pulse c k).outs = s.outs := rfl
@[simp] theorem State.pulse_hostRead (c : CtxId) (k : EventKind) : (s.pulse c k).hostRead = s.hostRead := rfl

/-! ### freeConverter -/

@[simp] theorem State.freeConverter_pending : (s.freeConverter).pending = s.pending := rfl
@[simp] theorem State.freeConverter_timeBase : (s.freeConverter).timeBase = s.timeBase := rfl
@[simp] theorem State.freeConverter_link : (s.freeConverter).link = s.link := rfl
@[simp] theorem State.freeConverter_intake : (s.freeConverter).intake = s.intake := rfl
@[simp] theorem State.freeConverter_cpl : (s.freeConverter).cpl = s.cpl := rfl
@[simp] theorem State.freeConverter_chans : (s.freeConverter).chans = s.chans := rfl
@[simp] theorem State.freeConverter_ctxs : (s.freeConverter).ctxs = s.ctxs := rfl
@[simp] theorem State.freeConverter_conv : (s.freeConverter).conv = { s.conv with holder := .none } := rfl
@[simp] theorem State.freeConverter_lines : (s.freeConverter).lines = s.lines := rfl
@[simp] theorem State.freeConverter_outs : (s.freeConverter).outs = s.outs := rfl
@[simp] theorem State.freeConverter_hostRead : (s.freeConverter).hostRead = s.hostRead := rfl

/-! ### clearCounters -/

@[simp] theorem State.clearCounters_pending : (s.clearCounters).pending = s.pending := rfl
@[simp] theorem State.clearCounters_timeBase : (s.clearCounters).timeBase = s.timeBase := rfl
@[simp] theorem State.clearCounters_link : (s.clearCounters).link = s.link := rfl
@[simp] theorem State.clearCounters_intake : (s.clearCounters).intake = s.intake := rfl
@[simp] theorem State.clearCounters_cpl : (s.clearCounters).cpl = s.cpl := rfl
@[simp] theorem State.clearCounters_chans : (s.clearCounters).chans = s.chans := rfl
@[simp] theorem State.clearCounters_ctxs : (s.clearCounters).ctxs = s.ctxs := rfl
@[simp] theorem State.clearCounters_conv : (s.clearCounters).conv = s.conv := rfl
@[simp] theorem State.clearCounters_lines :
    (s.clearCounters).lines = { s.lines with counters := s.lines.counters.map fun k => { k with count := 0 } } := by
  rw [← mapEach_eq]
  rfl
@[simp] theorem State.clearCounters_outs : (s.clearCounters).outs = s.outs := rfl
@[simp] theorem State.clearCounters_hostRead : (s.clearCounters).hostRead = s.hostRead := rfl

/-! ### readBy -/

@[simp] theorem State.readSlot_ctxs (u : State) (r : ReadOrder) : (s.readSlot u r).ctxs = s.ctxs := by
  unfold State.readSlot; split <;> (try split) <;> (try split) <;> rfl

@[simp] theorem State.readBy_pending (u : State) (r : ReadOrder) : (s.readBy u r).pending = s.pending := by
  unfold State.readBy State.readSlot; dsimp only; split <;> (try split) <;> (try split) <;> rfl
@[simp] theorem State.readBy_timeBase (u : State) (r : ReadOrder) : (s.readBy u r).timeBase = s.timeBase := by
  unfold State.readBy State.readSlot; dsimp only; split <;> (try split) <;> (try split) <;> rfl
@[simp] theorem State.readBy_link (u : State) (r : ReadOrder) : (s.readBy u r).link = s.link := by
  unfold State.readBy State.readSlot; dsimp only; split <;> (try split) <;> (try split) <;> rfl
@[simp] theorem State.readBy_intake (u : State) (r : ReadOrder) : (s.readBy u r).intake = s.intake := by
  unfold State.readBy State.readSlot; dsimp only; split <;> (try split) <;> (try split) <;> rfl
@[simp] theorem State.readBy_cpl (u : State) (r : ReadOrder) : (s.readBy u r).cpl = s.cpl := by
  unfold State.readBy State.readSlot; dsimp only; split <;> (try split) <;> (try split) <;> rfl
@[simp] theorem State.readBy_chans (u : State) (r : ReadOrder) : (s.readBy u r).chans = s.chans := by
  unfold State.readBy State.readSlot; dsimp only; split <;> (try split) <;> (try split) <;> rfl
@[simp] theorem State.readBy_lines (u : State) (r : ReadOrder) : (s.readBy u r).lines = s.lines := by
  unfold State.readBy State.readSlot; dsimp only; split <;> (try split) <;> (try split) <;> rfl
@[simp] theorem State.readBy_outs (u : State) (r : ReadOrder) : (s.readBy u r).outs = s.outs := by
  unfold State.readBy State.readSlot; dsimp only; split <;> (try split) <;> (try split) <;> rfl
@[simp] theorem State.readBy_hostRead (u : State) (r : ReadOrder) : (s.readBy u r).hostRead = s.hostRead := by
  unfold State.readBy State.readSlot; dsimp only; split <;> (try split) <;> (try split) <;> rfl
@[simp] theorem State.readBy_conv (u : State) (r : ReadOrder) : (s.readBy u r).conv = (s.readSlot u r).conv := rfl
@[simp] theorem State.ctx_readBy (u : State) (r : ReadOrder) (c : CtxId) :
    (s.readBy u r).ctx c = (s.ctx c).readScan (u.ctx c) (scanLinesShown r u s c) := by
  simp [State.readBy, State.ctx]

/-! ### endFetch -/

@[simp] theorem State.endFetch_pending : (s.endFetch).pending = s.pending := rfl
@[simp] theorem State.endFetch_timeBase : (s.endFetch).timeBase = s.timeBase := rfl
@[simp] theorem State.endFetch_link : (s.endFetch).link = s.link := rfl
@[simp] theorem State.endFetch_intake : (s.endFetch).intake = { s.intake with fetch := none } := rfl
@[simp] theorem State.endFetch_cpl : (s.endFetch).cpl = s.cpl := rfl
@[simp] theorem State.endFetch_chans : (s.endFetch).chans = s.chans := rfl
@[simp] theorem State.endFetch_ctxs : (s.endFetch).ctxs = s.ctxs := rfl
@[simp] theorem State.endFetch_conv : (s.endFetch).conv = s.conv := rfl
@[simp] theorem State.endFetch_lines : (s.endFetch).lines = s.lines := rfl
@[simp] theorem State.endFetch_outs : (s.endFetch).outs = s.outs := rfl
@[simp] theorem State.endFetch_hostRead : (s.endFetch).hostRead = s.hostRead := rfl

/-! ### endRead -/

@[simp] theorem State.endRead_pending (k : Nat) : (s.endRead k).pending = s.pending := rfl
@[simp] theorem State.endRead_timeBase (k : Nat) : (s.endRead k).timeBase = s.timeBase := rfl
@[simp] theorem State.endRead_link (k : Nat) :
    (s.endRead k).link = { s.link with bus := { s.link.bus with outstanding := s.link.bus.outstanding.eraseIdx k } } := rfl
@[simp] theorem State.endRead_intake (k : Nat) : (s.endRead k).intake = s.intake := rfl
@[simp] theorem State.endRead_cpl (k : Nat) : (s.endRead k).cpl = s.cpl := rfl
@[simp] theorem State.endRead_chans (k : Nat) : (s.endRead k).chans = s.chans := rfl
@[simp] theorem State.endRead_ctxs (k : Nat) : (s.endRead k).ctxs = s.ctxs := rfl
@[simp] theorem State.endRead_conv (k : Nat) : (s.endRead k).conv = s.conv := rfl
@[simp] theorem State.endRead_lines (k : Nat) : (s.endRead k).lines = s.lines := rfl
@[simp] theorem State.endRead_outs (k : Nat) : (s.endRead k).outs = s.outs := rfl
@[simp] theorem State.endRead_hostRead (k : Nat) : (s.endRead k).hostRead = s.hostRead := rfl

/-! ### sent -/

@[simp] theorem State.sent_pending : (s.sent).pending = s.pending := rfl
@[simp] theorem State.sent_timeBase : (s.sent).timeBase = s.timeBase := rfl
@[simp] theorem State.sent_link : (s.sent).link = { s.link with bus := { s.link.bus with busy := false } } := rfl
@[simp] theorem State.sent_intake : (s.sent).intake = s.intake := rfl
@[simp] theorem State.sent_cpl : (s.sent).cpl = s.cpl := rfl
@[simp] theorem State.sent_chans : (s.sent).chans = s.chans := rfl
@[simp] theorem State.sent_ctxs : (s.sent).ctxs = s.ctxs := rfl
@[simp] theorem State.sent_conv : (s.sent).conv = s.conv := rfl
@[simp] theorem State.sent_lines : (s.sent).lines = s.lines := rfl
@[simp] theorem State.sent_outs : (s.sent).outs = s.outs := rfl
@[simp] theorem State.sent_hostRead : (s.sent).hostRead = s.hostRead := rfl

/-! ### One entry after another has been replaced -/

@[simp] theorem State.ctx_setCtx_self (i : CtxId) (x : Ctx) : (s.setCtx i x).ctx i = x := by
  simp [State.ctx]

theorem State.ctx_setCtx (i j : CtxId) (x : Ctx) : (s.setCtx i x).ctx j = if j = i then x else s.ctx j := by
  simp only [State.ctx, State.setCtx_ctxs, Vector.getElem_set, Fin.ext_iff, eq_comm]

@[simp] theorem State.ring_setRing_self (i : RingId) (x : Ring) : (s.setRing i x).ring i = x := by
  simp [State.ring]

theorem State.ring_setRing (i j : RingId) (x : Ring) : (s.setRing i x).ring j = if j = i then x else s.ring j := by
  simp only [State.ring, State.setRing_intake, Vector.getElem_set, Fin.ext_iff, eq_comm]

@[simp] theorem State.chan_setChan_self (i : ChanId) (x : Channel) : (s.setChan i x).chan i = x := by
  simp [State.chan]

theorem State.chan_setChan (i j : ChanId) (x : Channel) : (s.setChan i x).chan j = if j = i then x else s.chan j := by
  simp only [State.chan, State.setChan_chans, Vector.getElem_set, Fin.ext_iff, eq_comm]

@[simp] theorem State.line_setLine_self (i : LineId) (x : Line) : (s.setLine i x).line i = x := by
  simp [State.line]

theorem State.line_setLine (i j : LineId) (x : Line) : (s.setLine i x).line j = if j = i then x else s.line j := by
  simp only [State.line, State.setLine_lines, Vector.getElem_set, Fin.ext_iff, eq_comm]

@[simp] theorem State.out_setOut_self (i : Fin 2) (x : Output) : (s.setOut i x).out i = x := by
  simp [State.out]

theorem State.out_setOut (i j : Fin 2) (x : Output) : (s.setOut i x).out j = if j = i then x else s.out j := by
  simp only [State.out, State.setOut_outs, Vector.getElem_set, Fin.ext_iff, eq_comm]

@[simp] theorem State.counter_setCounter_self (i : Fin 2) (x : Counter) : (s.setCounter i x).counter i = x := by
  simp [State.counter]

theorem State.counter_setCounter (i j : Fin 2) (x : Counter) : (s.setCounter i x).counter j = if j = i then x else s.counter j := by
  simp only [State.counter, State.setCounter_lines, Vector.getElem_set, Fin.ext_iff, eq_comm]

/-- A context's record is read from the context table alone. -/
theorem State.ctx_congr {s t : State} (h : s.ctxs = t.ctxs) (c : CtxId) : s.ctx c = t.ctx c := by
  simp only [State.ctx, h]

@[simp] theorem State.ctx_modCtx_self (c : CtxId) (f : Ctx → Ctx) : (s.modCtx c f).ctx c = f (s.ctx c) := by
  simp [State.modCtx]

theorem State.ctx_modCtx (c d : CtxId) (f : Ctx → Ctx) :
    (s.modCtx c f).ctx d = if d = c then f (s.ctx c) else s.ctx d := State.ctx_setCtx s c d _

/-! ### What leaves State.ctx as it is -/

@[simp] theorem State.ctx_setRing (r : RingId) (x : Ring) (i : CtxId) :
    (s.setRing r x).ctx i = s.ctx i := rfl
@[simp] theorem State.ctx_setChan (n : ChanId) (x : Channel) (i : CtxId) :
    (s.setChan n x).ctx i = s.ctx i := rfl
@[simp] theorem State.ctx_setLine (l : LineId) (x : Line) (i : CtxId) :
    (s.setLine l x).ctx i = s.ctx i := rfl
@[simp] theorem State.ctx_setOut (o : Fin 2) (x : Output) (i : CtxId) :
    (s.setOut o x).ctx i = s.ctx i := rfl
@[simp] theorem State.ctx_setCounter (k : Fin 2) (x : Counter) (i : CtxId) :
    (s.setCounter k x).ctx i = s.ctx i := rfl
@[simp] theorem State.ctx_modRegs (f : Registers → Registers) (i : CtxId) :
    (s.modRegs f).ctx i = s.ctx i := rfl
@[simp] theorem State.ctx_modBus (f : Bus → Bus) (i : CtxId) :
    (s.modBus f).ctx i = s.ctx i := rfl
@[simp] theorem State.ctx_modConv (f : Conversion → Conversion) (i : CtxId) :
    (s.modConv f).ctx i = s.ctx i := rfl
@[simp] theorem State.ctx_advanceTo (t : Time) (i : CtxId) :
    (s.advanceTo t).ctx i = s.ctx i := rfl
@[simp] theorem State.ctx_tickTime (i : CtxId) :
    (s.tickTime).ctx i = s.ctx i := rfl
@[simp] theorem State.ctx_freeEntry (id : Nat) (i : CtxId) :
    (s.freeEntry id).ctx i = s.ctx i := rfl
@[simp] theorem State.ctx_pushCompletion (m : Completion) (i : CtxId) :
    (s.pushCompletion m).ctx i = s.ctx i := rfl
@[simp] theorem State.ctx_takeDispatched (r : RingId) (i : CtxId) :
    (s.takeDispatched r).ctx i = s.ctx i := rfl
@[simp] theorem State.ctx_dropBarriers (done : List Nat) (i : CtxId) :
    (s.dropBarriers done).ctx i = s.ctx i := rfl
@[simp] theorem State.ctx_wait (claims : List Claim) (i : CtxId) :
    (s.wait claims).ctx i = s.ctx i := rfl
@[simp] theorem State.ctx_dropClaimant (i : CtxId) :
    (s.dropClaimant).ctx i = s.ctx i := rfl
@[simp] theorem State.ctx_pulse (c : CtxId) (k : EventKind) (i : CtxId) :
    (s.pulse c k).ctx i = s.ctx i := rfl
@[simp] theorem State.ctx_freeConverter (i : CtxId) :
    (s.freeConverter).ctx i = s.ctx i := rfl
@[simp] theorem State.ctx_clearCounters (i : CtxId) :
    (s.clearCounters).ctx i = s.ctx i := rfl
@[simp] theorem State.ctx_endFetch (i : CtxId) :
    (s.endFetch).ctx i = s.ctx i := rfl
@[simp] theorem State.ctx_endRead (k : Nat) (i : CtxId) :
    (s.endRead k).ctx i = s.ctx i := rfl
@[simp] theorem State.ctx_sent (i : CtxId) :
    (s.sent).ctx i = s.ctx i := rfl

/-! ### What leaves State.ring as it is -/

@[simp] theorem State.ring_setCtx (c : CtxId) (x : Ctx) (i : RingId) :
    (s.setCtx c x).ring i = s.ring i := rfl
@[simp] theorem State.ring_modCtx (c : CtxId) (f : Ctx → Ctx) (i : RingId) :
    (s.modCtx c f).ring i = s.ring i := rfl
@[simp] theorem State.ring_setChan (n : ChanId) (x : Channel) (i : RingId) :
    (s.setChan n x).ring i = s.ring i := rfl
@[simp] theorem State.ring_setLine (l : LineId) (x : Line) (i : RingId) :
    (s.setLine l x).ring i = s.ring i := rfl
@[simp] theorem State.ring_setOut (o : Fin 2) (x : Output) (i : RingId) :
    (s.setOut o x).ring i = s.ring i := rfl
@[simp] theorem State.ring_setCounter (k : Fin 2) (x : Counter) (i : RingId) :
    (s.setCounter k x).ring i = s.ring i := rfl
@[simp] theorem State.ring_modRegs (f : Registers → Registers) (i : RingId) :
    (s.modRegs f).ring i = s.ring i := rfl
@[simp] theorem State.ring_modBus (f : Bus → Bus) (i : RingId) :
    (s.modBus f).ring i = s.ring i := rfl
@[simp] theorem State.ring_modConv (f : Conversion → Conversion) (i : RingId) :
    (s.modConv f).ring i = s.ring i := rfl
@[simp] theorem State.ring_advanceTo (t : Time) (i : RingId) :
    (s.advanceTo t).ring i = s.ring i := rfl
@[simp] theorem State.ring_tickTime (i : RingId) :
    (s.tickTime).ring i = s.ring i := rfl
@[simp] theorem State.ring_freeEntry (id : Nat) (i : RingId) :
    (s.freeEntry id).ring i = s.ring i := rfl
@[simp] theorem State.ring_pushCompletion (m : Completion) (i : RingId) :
    (s.pushCompletion m).ring i = s.ring i := rfl
@[simp] theorem State.ring_takeDispatched (r : RingId) (i : RingId) :
    (s.takeDispatched r).ring i = s.ring i := rfl
@[simp] theorem State.ring_dropBarriers (done : List Nat) (i : RingId) :
    (s.dropBarriers done).ring i = s.ring i := rfl
@[simp] theorem State.ring_wait (claims : List Claim) (i : RingId) :
    (s.wait claims).ring i = s.ring i := rfl
@[simp] theorem State.ring_dropClaimant (i : RingId) :
    (s.dropClaimant).ring i = s.ring i := rfl
@[simp] theorem State.ring_pulse (c : CtxId) (k : EventKind) (i : RingId) :
    (s.pulse c k).ring i = s.ring i := rfl
@[simp] theorem State.ring_freeConverter (i : RingId) :
    (s.freeConverter).ring i = s.ring i := rfl
@[simp] theorem State.ring_clearCounters (i : RingId) :
    (s.clearCounters).ring i = s.ring i := rfl
@[simp] theorem State.ring_endFetch (i : RingId) :
    (s.endFetch).ring i = s.ring i := rfl
@[simp] theorem State.ring_endRead (k : Nat) (i : RingId) :
    (s.endRead k).ring i = s.ring i := rfl
@[simp] theorem State.ring_sent (i : RingId) :
    (s.sent).ring i = s.ring i := rfl

/-! ### What leaves State.chan as it is -/

@[simp] theorem State.chan_setCtx (c : CtxId) (x : Ctx) (i : ChanId) :
    (s.setCtx c x).chan i = s.chan i := rfl
@[simp] theorem State.chan_modCtx (c : CtxId) (f : Ctx → Ctx) (i : ChanId) :
    (s.modCtx c f).chan i = s.chan i := rfl
@[simp] theorem State.chan_setRing (r : RingId) (x : Ring) (i : ChanId) :
    (s.setRing r x).chan i = s.chan i := rfl
@[simp] theorem State.chan_setLine (l : LineId) (x : Line) (i : ChanId) :
    (s.setLine l x).chan i = s.chan i := rfl
@[simp] theorem State.chan_setOut (o : Fin 2) (x : Output) (i : ChanId) :
    (s.setOut o x).chan i = s.chan i := rfl
@[simp] theorem State.chan_setCounter (k : Fin 2) (x : Counter) (i : ChanId) :
    (s.setCounter k x).chan i = s.chan i := rfl
@[simp] theorem State.chan_modRegs (f : Registers → Registers) (i : ChanId) :
    (s.modRegs f).chan i = s.chan i := rfl
@[simp] theorem State.chan_modBus (f : Bus → Bus) (i : ChanId) :
    (s.modBus f).chan i = s.chan i := rfl
@[simp] theorem State.chan_modConv (f : Conversion → Conversion) (i : ChanId) :
    (s.modConv f).chan i = s.chan i := rfl
@[simp] theorem State.chan_advanceTo (t : Time) (i : ChanId) :
    (s.advanceTo t).chan i = s.chan i := rfl
@[simp] theorem State.chan_tickTime (i : ChanId) :
    (s.tickTime).chan i = s.chan i := rfl
@[simp] theorem State.chan_freeEntry (id : Nat) (i : ChanId) :
    (s.freeEntry id).chan i = s.chan i := rfl
@[simp] theorem State.chan_pushCompletion (m : Completion) (i : ChanId) :
    (s.pushCompletion m).chan i = s.chan i := rfl
@[simp] theorem State.chan_takeDispatched (r : RingId) (i : ChanId) :
    (s.takeDispatched r).chan i = s.chan i := rfl
@[simp] theorem State.chan_dropBarriers (done : List Nat) (i : ChanId) :
    (s.dropBarriers done).chan i = s.chan i := rfl
@[simp] theorem State.chan_wait (claims : List Claim) (i : ChanId) :
    (s.wait claims).chan i = s.chan i := rfl
@[simp] theorem State.chan_dropClaimant (i : ChanId) :
    (s.dropClaimant).chan i = s.chan i := rfl
@[simp] theorem State.chan_pulse (c : CtxId) (k : EventKind) (i : ChanId) :
    (s.pulse c k).chan i = s.chan i := rfl
@[simp] theorem State.chan_freeConverter (i : ChanId) :
    (s.freeConverter).chan i = s.chan i := rfl
@[simp] theorem State.chan_clearCounters (i : ChanId) :
    (s.clearCounters).chan i = s.chan i := rfl
@[simp] theorem State.chan_endFetch (i : ChanId) :
    (s.endFetch).chan i = s.chan i := rfl
@[simp] theorem State.chan_endRead (k : Nat) (i : ChanId) :
    (s.endRead k).chan i = s.chan i := rfl
@[simp] theorem State.chan_sent (i : ChanId) :
    (s.sent).chan i = s.chan i := rfl

/-! ### What leaves State.line as it is -/

@[simp] theorem State.line_setCtx (c : CtxId) (x : Ctx) (i : LineId) :
    (s.setCtx c x).line i = s.line i := rfl
@[simp] theorem State.line_modCtx (c : CtxId) (f : Ctx → Ctx) (i : LineId) :
    (s.modCtx c f).line i = s.line i := rfl
@[simp] theorem State.line_setRing (r : RingId) (x : Ring) (i : LineId) :
    (s.setRing r x).line i = s.line i := rfl
@[simp] theorem State.line_setChan (n : ChanId) (x : Channel) (i : LineId) :
    (s.setChan n x).line i = s.line i := rfl
@[simp] theorem State.line_setOut (o : Fin 2) (x : Output) (i : LineId) :
    (s.setOut o x).line i = s.line i := rfl
@[simp] theorem State.line_setCounter (k : Fin 2) (x : Counter) (i : LineId) :
    (s.setCounter k x).line i = s.line i := rfl
@[simp] theorem State.line_modRegs (f : Registers → Registers) (i : LineId) :
    (s.modRegs f).line i = s.line i := rfl
@[simp] theorem State.line_modBus (f : Bus → Bus) (i : LineId) :
    (s.modBus f).line i = s.line i := rfl
@[simp] theorem State.line_modConv (f : Conversion → Conversion) (i : LineId) :
    (s.modConv f).line i = s.line i := rfl
@[simp] theorem State.line_advanceTo (t : Time) (i : LineId) :
    (s.advanceTo t).line i = s.line i := rfl
@[simp] theorem State.line_tickTime (i : LineId) :
    (s.tickTime).line i = s.line i := rfl
@[simp] theorem State.line_freeEntry (id : Nat) (i : LineId) :
    (s.freeEntry id).line i = s.line i := rfl
@[simp] theorem State.line_pushCompletion (m : Completion) (i : LineId) :
    (s.pushCompletion m).line i = s.line i := rfl
@[simp] theorem State.line_takeDispatched (r : RingId) (i : LineId) :
    (s.takeDispatched r).line i = s.line i := rfl
@[simp] theorem State.line_dropBarriers (done : List Nat) (i : LineId) :
    (s.dropBarriers done).line i = s.line i := rfl
@[simp] theorem State.line_wait (claims : List Claim) (i : LineId) :
    (s.wait claims).line i = s.line i := rfl
@[simp] theorem State.line_dropClaimant (i : LineId) :
    (s.dropClaimant).line i = s.line i := rfl
@[simp] theorem State.line_freeConverter (i : LineId) :
    (s.freeConverter).line i = s.line i := rfl
@[simp] theorem State.line_clearCounters (i : LineId) :
    (s.clearCounters).line i = s.line i := rfl
@[simp] theorem State.line_endFetch (i : LineId) :
    (s.endFetch).line i = s.line i := rfl
@[simp] theorem State.line_endRead (k : Nat) (i : LineId) :
    (s.endRead k).line i = s.line i := rfl
@[simp] theorem State.line_sent (i : LineId) :
    (s.sent).line i = s.line i := rfl

/-! ### What leaves State.out as it is -/

@[simp] theorem State.out_setCtx (c : CtxId) (x : Ctx) (i : Fin 2) :
    (s.setCtx c x).out i = s.out i := rfl
@[simp] theorem State.out_modCtx (c : CtxId) (f : Ctx → Ctx) (i : Fin 2) :
    (s.modCtx c f).out i = s.out i := rfl
@[simp] theorem State.out_setRing (r : RingId) (x : Ring) (i : Fin 2) :
    (s.setRing r x).out i = s.out i := rfl
@[simp] theorem State.out_setChan (n : ChanId) (x : Channel) (i : Fin 2) :
    (s.setChan n x).out i = s.out i := rfl
@[simp] theorem State.out_setLine (l : LineId) (x : Line) (i : Fin 2) :
    (s.setLine l x).out i = s.out i := rfl
@[simp] theorem State.out_setCounter (k : Fin 2) (x : Counter) (i : Fin 2) :
    (s.setCounter k x).out i = s.out i := rfl
@[simp] theorem State.out_modRegs (f : Registers → Registers) (i : Fin 2) :
    (s.modRegs f).out i = s.out i := rfl
@[simp] theorem State.out_modBus (f : Bus → Bus) (i : Fin 2) :
    (s.modBus f).out i = s.out i := rfl
@[simp] theorem State.out_modConv (f : Conversion → Conversion) (i : Fin 2) :
    (s.modConv f).out i = s.out i := rfl
@[simp] theorem State.out_advanceTo (t : Time) (i : Fin 2) :
    (s.advanceTo t).out i = s.out i := rfl
@[simp] theorem State.out_tickTime (i : Fin 2) :
    (s.tickTime).out i = s.out i := rfl
@[simp] theorem State.out_freeEntry (id : Nat) (i : Fin 2) :
    (s.freeEntry id).out i = s.out i := rfl
@[simp] theorem State.out_pushCompletion (m : Completion) (i : Fin 2) :
    (s.pushCompletion m).out i = s.out i := rfl
@[simp] theorem State.out_takeDispatched (r : RingId) (i : Fin 2) :
    (s.takeDispatched r).out i = s.out i := rfl
@[simp] theorem State.out_dropBarriers (done : List Nat) (i : Fin 2) :
    (s.dropBarriers done).out i = s.out i := rfl
@[simp] theorem State.out_wait (claims : List Claim) (i : Fin 2) :
    (s.wait claims).out i = s.out i := rfl
@[simp] theorem State.out_dropClaimant (i : Fin 2) :
    (s.dropClaimant).out i = s.out i := rfl
@[simp] theorem State.out_pulse (c : CtxId) (k : EventKind) (i : Fin 2) :
    (s.pulse c k).out i = s.out i := rfl
@[simp] theorem State.out_freeConverter (i : Fin 2) :
    (s.freeConverter).out i = s.out i := rfl
@[simp] theorem State.out_clearCounters (i : Fin 2) :
    (s.clearCounters).out i = s.out i := rfl
@[simp] theorem State.out_endFetch (i : Fin 2) :
    (s.endFetch).out i = s.out i := rfl
@[simp] theorem State.out_endRead (k : Nat) (i : Fin 2) :
    (s.endRead k).out i = s.out i := rfl
@[simp] theorem State.out_sent (i : Fin 2) :
    (s.sent).out i = s.out i := rfl

/-! ### What leaves State.counter as it is -/

@[simp] theorem State.counter_setCtx (c : CtxId) (x : Ctx) (i : Fin 2) :
    (s.setCtx c x).counter i = s.counter i := rfl
@[simp] theorem State.counter_modCtx (c : CtxId) (f : Ctx → Ctx) (i : Fin 2) :
    (s.modCtx c f).counter i = s.counter i := rfl
@[simp] theorem State.counter_setRing (r : RingId) (x : Ring) (i : Fin 2) :
    (s.setRing r x).counter i = s.counter i := rfl
@[simp] theorem State.counter_setChan (n : ChanId) (x : Channel) (i : Fin 2) :
    (s.setChan n x).counter i = s.counter i := rfl
@[simp] theorem State.counter_setLine (l : LineId) (x : Line) (i : Fin 2) :
    (s.setLine l x).counter i = s.counter i := rfl
@[simp] theorem State.counter_setOut (o : Fin 2) (x : Output) (i : Fin 2) :
    (s.setOut o x).counter i = s.counter i := rfl
@[simp] theorem State.counter_modRegs (f : Registers → Registers) (i : Fin 2) :
    (s.modRegs f).counter i = s.counter i := rfl
@[simp] theorem State.counter_modBus (f : Bus → Bus) (i : Fin 2) :
    (s.modBus f).counter i = s.counter i := rfl
@[simp] theorem State.counter_modConv (f : Conversion → Conversion) (i : Fin 2) :
    (s.modConv f).counter i = s.counter i := rfl
@[simp] theorem State.counter_advanceTo (t : Time) (i : Fin 2) :
    (s.advanceTo t).counter i = s.counter i := rfl
@[simp] theorem State.counter_tickTime (i : Fin 2) :
    (s.tickTime).counter i = s.counter i := rfl
@[simp] theorem State.counter_freeEntry (id : Nat) (i : Fin 2) :
    (s.freeEntry id).counter i = s.counter i := rfl
@[simp] theorem State.counter_pushCompletion (m : Completion) (i : Fin 2) :
    (s.pushCompletion m).counter i = s.counter i := rfl
@[simp] theorem State.counter_takeDispatched (r : RingId) (i : Fin 2) :
    (s.takeDispatched r).counter i = s.counter i := rfl
@[simp] theorem State.counter_dropBarriers (done : List Nat) (i : Fin 2) :
    (s.dropBarriers done).counter i = s.counter i := rfl
@[simp] theorem State.counter_wait (claims : List Claim) (i : Fin 2) :
    (s.wait claims).counter i = s.counter i := rfl
@[simp] theorem State.counter_dropClaimant (i : Fin 2) :
    (s.dropClaimant).counter i = s.counter i := rfl
@[simp] theorem State.counter_pulse (c : CtxId) (k : EventKind) (i : Fin 2) :
    (s.pulse c k).counter i = s.counter i := rfl
@[simp] theorem State.counter_freeConverter (i : Fin 2) :
    (s.freeConverter).counter i = s.counter i := rfl
@[simp] theorem State.counter_endFetch (i : Fin 2) :
    (s.endFetch).counter i = s.counter i := rfl
@[simp] theorem State.counter_endRead (k : Nat) (i : Fin 2) :
    (s.endRead k).counter i = s.counter i := rfl
@[simp] theorem State.counter_sent (i : Fin 2) :
    (s.sent).counter i = s.counter i := rfl

/-! ### The pending table, the queue of dispatched commands and the converter's holder -/

@[simp] theorem State.entry?_takeDispatched (r : RingId) (id : Nat) :
    (s.takeDispatched r).entry? id = s.entry? id := rfl

@[simp] theorem State.holdsConverter_setCtx (c d : CtxId) (x : Ctx) :
    (s.setCtx c x).holdsConverter d = s.holdsConverter d := rfl

@[simp] theorem State.backlogOpen_takeDispatched (r : RingId) : (s.takeDispatched r).backlogOpen = s.backlogOpen := rfl

@[simp] theorem State.backlogOpen_setCtx (c : CtxId) (x : Ctx) : (s.setCtx c x).backlogOpen = s.backlogOpen := rfl

end Sys2Proof.Machine
end

