-- ==== Sys2Proof/Laws/HandIn.lean ====
section
/-!
SUPPORT. What handing completions in can do: `joinCommand` case by case, claims of commands alone (`handIn_commands`),
and the answer of one command (`complete_answered`).
-/

namespace Sys2Proof.Machine

open Sys2Proof

/-! ### One command joins the backlog -/

/-- The state after the completion of entry `e` with answer `a` has joined, but for the BARRIERs it held back. -/
def State.joined (s : State) (e : PendingEntry) (id : Nat) (a : Answer) : State :=
  ((s.pushCompletion (e.completion a s.timeBase)).freeEntry id).endCalibration id

/-- `joinCommand` does nothing for an entry that is not pending. -/
theorem State.joinCommand_none {s : State} {id : Nat} {a : Answer} (h : s.entry? id = none) :
    s.joinCommand id a = (s, []) := by
  simp only [State.joinCommand, h]

/-- `joinCommand` pushes the completion, frees the entry and drops the BARRIERs that became ready, which claim next. -/
theorem State.joinCommand_some {s : State} {id : Nat} {a : Answer} {e : PendingEntry} (h : s.entry? id = some e) :
    s.joinCommand id a =
      ((s.joined e id a).dropBarriers ((s.joined e id a).readyBarriers e.ring),
        ((s.joined e id a).readyBarriers e.ring).map fun b => .command b (answer .ok 0 0 0)) := by
  simp only [State.joinCommand, h, State.joined]

theorem State.endCalibration_cases (s : State) (id : Nat) :
    s.endCalibration id = s ∨
      s.endCalibration id = { s with conv := { s.conv with cal := { s.conv.cal with entry := none } } } := by
  unfold State.endCalibration
  split
  · exact .inr rfl
  · exact .inl rfl

@[simp] theorem State.endCalibration_intake (s : State) (id : Nat) : (s.endCalibration id).intake = s.intake := by
  rcases s.endCalibration_cases id with h | h <;> rw [h]

@[simp] theorem State.endCalibration_cpl (s : State) (id : Nat) : (s.endCalibration id).cpl = s.cpl := by
  rcases s.endCalibration_cases id with h | h <;> rw [h]

@[simp] theorem State.endCalibration_timeBase (s : State) (id : Nat) :
    (s.endCalibration id).timeBase = s.timeBase := by
  rcases s.endCalibration_cases id with h | h <;> rw [h]

@[simp] theorem State.endCalibration_apart (s : State) (id : Nat) : (s.endCalibration id).apart = s.apart := by
  rcases s.endCalibration_cases id with h | h
  · rw [h]
  · rw [h]; rfl

@[simp] theorem State.endCalibration_none (s : State) (id : Nat) (h : s.conv.cal.entry ≠ some id) :
    s.endCalibration id = s := by
  simp only [State.endCalibration, h, if_false]

@[simp] theorem State.joined_table (s : State) (e : PendingEntry) (id : Nat) (a : Answer) :
    (s.joined e id a).intake.table = s.intake.table.filter fun x => x.age != id := by
  simp [State.joined]

@[simp] theorem State.joined_barriers (s : State) (e : PendingEntry) (id : Nat) (a : Answer) :
    (s.joined e id a).intake.barriers = s.intake.barriers := by
  simp [State.joined]

@[simp] theorem State.joined_cpl (s : State) (e : PendingEntry) (id : Nat) (a : Answer) :
    (s.joined e id a).cpl = { s.cpl with backlog := s.cpl.backlog ++ [e.completion a s.timeBase] } := by
  simp [State.joined]

@[simp] theorem State.joined_apart (s : State) (e : PendingEntry) (id : Nat) (a : Answer) :
    (s.joined e id a).apart = s.apart := by
  simp only [State.joined, State.endCalibration_apart]
  rfl

@[simp] theorem State.dropBarriers_apart (s : State) (done : List Nat) : (s.dropBarriers done).apart = s.apart := rfl

@[simp] theorem State.wait_apart (s : State) (claims : List Claim) : (s.wait claims).apart = s.apart := rfl

@[simp] theorem State.apart_apart (s : State) : s.apart.apart = s.apart := rfl

/-- States equal apart have the same contexts. -/
theorem State.apart_ctxs {s t : State} (h : s.apart = t.apart) : s.ctxs = t.ctxs := by
  simpa [State.apart] using congrArg State.ctxs h

/-- States equal apart have the same outputs. -/
theorem State.apart_outs {s t : State} (h : s.apart = t.apart) : s.outs = t.outs := by
  simpa [State.apart] using congrArg State.outs h

/-- States equal apart have the same Host Link. -/
theorem State.apart_link {s t : State} (h : s.apart = t.apart) : s.link = t.link := by
  simpa [State.apart] using congrArg State.link h

/-- States equal apart have the same time base. -/
theorem State.apart_timeBase {s t : State} (h : s.apart = t.apart) : s.timeBase = t.timeBase := by
  simpa [State.apart] using congrArg State.timeBase h

/-- A command's join changes nothing but what handing in changes. -/
theorem State.joinCommand_apart (s : State) (id : Nat) (a : Answer) : (s.joinCommand id a).1.apart = s.apart := by
  cases h : s.entry? id with
  | none => rw [State.joinCommand_none h]
  | some e => rw [State.joinCommand_some h]; simp

/-- What a command's join claims next are OK answers of BARRIERs that waited. -/
theorem State.joinCommand_claims (s : State) (id : Nat) (a : Answer) :
    ∀ cl ∈ (s.joinCommand id a).2, ∃ b ∈ s.intake.barriers, cl = .command b (answer .ok 0 0 0) := by
  cases h : s.entry? id with
  | none => rw [State.joinCommand_none h]; simp
  | some e =>
    rw [State.joinCommand_some h]
    intro cl hcl
    obtain ⟨b, hb, rfl⟩ := List.mem_map.1 hcl
    exact ⟨b, by simpa using (List.mem_filter.1 hb).1, rfl⟩

/-- A command's join drops waiting BARRIERs only. -/
theorem State.joinCommand_barriers (s : State) (id : Nat) (a : Answer) :
    ∀ b ∈ (s.joinCommand id a).1.intake.barriers, b ∈ s.intake.barriers := by
  cases h : s.entry? id with
  | none => rw [State.joinCommand_none h]; exact fun _ h => h
  | some e =>
    rw [State.joinCommand_some h]
    intro b hb
    exact by simpa using (List.mem_filter.1 hb).1

/-- A command's join frees its own entry only. -/
theorem State.joinCommand_table (s : State) (id : Nat) (a : Answer) :
    (s.joinCommand id a).1.intake.table = s.intake.table.filter fun x => x.age != id := by
  cases h : s.entry? id with
  | none =>
    rw [State.joinCommand_none h]
    refine (List.filter_eq_self.2 fun x hx => ?_).symm
    simpa using List.find?_eq_none.1 h x hx
  | some e => rw [State.joinCommand_some h]; simp

/-- A command's join adds at most its own completion to the backlog. -/
theorem State.joinCommand_backlog (s : State) (id : Nat) (a : Answer) :
    (s.joinCommand id a).1.cpl = { s.cpl with backlog :=
      s.cpl.backlog ++ ((s.entry? id).toList.map fun e => e.completion a s.timeBase) } := by
  cases h : s.entry? id with
  | none => rw [State.joinCommand_none h]; simp
  | some e => rw [State.joinCommand_some h]; simp

/-! ### Claims of commands alone -/

/-- A claim of a pending command. -/
def Claim.IsCommand (cl : Claim) : Prop := ∃ id a, cl = .command id a

/-- The number of the entry a claim answers. -/
def Claim.answers (id : Nat) (cl : Claim) : Prop := ∃ a, cl = .command id a

/-- An answer OK, as BARRIERs get. -/
def Claim.IsOk (cl : Claim) : Prop := ∃ id a, cl = .command id a ∧ a.status = .command .ok

theorem Claim.IsOk.isCommand {cl : Claim} (h : cl.IsOk) : cl.IsCommand :=
  let ⟨id, a, e, _⟩ := h
  ⟨id, a, e⟩

theorem State.handInUpTo_nil (n : Nat) (s : State) : State.handInUpTo n [] s = s := by
  cases n <;> rfl

/-- A claim waits where the backlog is not open. -/
theorem State.handInUpTo_closed {s : State} (n : Nat) (claims : List Claim) (h : s.backlogOpen = false) :
    State.handInUpTo n claims s = s.wait claims := by
  cases claims with
  | nil => rw [State.handInUpTo_nil]; simp [State.wait]
  | cons cl rest =>
    cases n with
    | zero => rfl
    | succ n => simp only [State.handInUpTo, h]; rfl

theorem State.handInUpTo_open {s : State} (n : Nat) (cl : Claim) (rest : List Claim) (h : s.backlogOpen = true) :
    State.handInUpTo (n + 1) (cl :: rest) s =
      State.handInUpTo n (rest ++ (s.joinClaim cl).2) (s.joinClaim cl).1 := by
  simp only [State.handInUpTo, h, if_true]

/-- Handing commands in one by one keeps a relation that every command's join and waiting keep. -/
theorem State.handInUpTo_commands {R : State → State → Prop} (refl : ∀ s, R s s)
    (trans : ∀ {a b c}, R a b → R b c → R a c) (join : ∀ s id a, R s (s.joinCommand id a).1)
    (wait : ∀ s claims, R s (s.wait claims)) :
    ∀ (n : Nat) (claims : List Claim) (s : State), (∀ cl ∈ claims, cl.IsCommand) →
      R s (State.handInUpTo n claims s) := by
  intro n
  induction n with
  | zero =>
    intro claims s _
    cases claims with
    | nil => exact refl s
    | cons cl rest => exact wait s _
  | succ n ih =>
    intro claims s h
    cases claims with
    | nil => exact refl s
    | cons cl rest =>
      by_cases hb : s.backlogOpen = true
      · rw [State.handInUpTo_open n cl rest hb]
        obtain ⟨id, a, rfl⟩ := h cl (by simp)
        refine trans (join s id a) (ih _ _ fun x hx => ?_)
        rcases List.mem_append.1 hx with hx | hx
        · exact h x (by simp [hx])
        · obtain ⟨b, _, rfl⟩ := s.joinCommand_claims id a x hx
          exact ⟨b, _, rfl⟩
      · rw [State.handInUpTo_closed _ _ (by simpa using hb)]
        exact wait s _

/-- Handing commands in changes only what handing in changes. -/
theorem State.handIn_apart {s : State} {claims : List Claim} (h : ∀ cl ∈ claims, cl.IsCommand) :
    (s.handIn claims).apart = s.apart :=
  State.handInUpTo_commands (R := fun s t => t.apart = s.apart) (fun _ => rfl) (fun h g => g.trans h)
    State.joinCommand_apart State.wait_apart _ _ _ h

/-- Handing commands in adds to the backlog and to the claimants, frees entries, and drops waiting BARRIERs. -/
structure HandedIn (s t : State) : Prop where
  backlog : ∃ more, t.cpl.backlog = s.cpl.backlog ++ more
  claimants : ∃ more, t.cpl.claimants = s.cpl.claimants ++ more
  table : t.intake.table.Sublist s.intake.table
  barriers : ∀ b ∈ t.intake.barriers, b ∈ s.intake.barriers

/-- Handing commands in adds to the backlog and to the claimants, frees entries, and drops waiting BARRIERs. -/
theorem State.handInUpTo_handedIn {s : State} {claims : List Claim} (n : Nat) (h : ∀ cl ∈ claims, cl.IsCommand) :
    HandedIn s (State.handInUpTo n claims s) := by
  refine State.handInUpTo_commands (R := HandedIn) ?_ ?_ ?_ ?_ n claims s h
  · exact fun s => ⟨⟨[], by simp⟩, ⟨[], by simp⟩, List.Sublist.refl _, fun _ h => h⟩
  · rintro a b c ⟨⟨m, hm⟩, ⟨k, hk⟩, ht, hb⟩ ⟨⟨m', hm'⟩, ⟨k', hk'⟩, ht', hb'⟩
    exact ⟨⟨m ++ m', by rw [hm', hm, List.append_assoc]⟩, ⟨k ++ k', by rw [hk', hk, List.append_assoc]⟩,
      ht'.trans ht, fun b h => hb b (hb' b h)⟩
  · intro s id a
    refine ⟨⟨_, by rw [State.joinCommand_backlog]⟩, ⟨[], by rw [State.joinCommand_backlog]; simp⟩, ?_,
      s.joinCommand_barriers id a⟩
    rw [State.joinCommand_table]
    exact List.filter_sublist
  · exact fun s claims => ⟨⟨[], by simp⟩, ⟨claims, by simp⟩, List.Sublist.refl _, fun _ h => h⟩

/-- An entry that no claim answers and that no waiting BARRIER holds stays. -/
theorem State.handInUpTo_keeps (n : Nat) : ∀ (claims : List Claim) (s : State), (∀ cl ∈ claims, cl.IsCommand) →
    ∀ e ∈ s.intake.table, (∀ cl ∈ claims, ¬cl.answers e.age) → e.age ∉ s.intake.barriers →
      e ∈ (State.handInUpTo n claims s).intake.table := by
  induction n with
  | zero =>
    intro claims s _ e he _ _
    cases claims with
    | nil => exact he
    | cons cl rest => exact he
  | succ n ih =>
    intro claims s h e he hc hb
    cases claims with
    | nil => exact he
    | cons cl rest =>
      by_cases ho : s.backlogOpen = true
      · rw [State.handInUpTo_open n cl rest ho]
        obtain ⟨id, a, rfl⟩ := h cl (by simp)
        have hid : e.age ≠ id := fun x => hc (.command id a) (by simp) ⟨a, by rw [x]⟩
        refine ih _ _ (fun x hx => ?_) e ?_ (fun x hx => ?_) fun hx => hb (s.joinCommand_barriers id a _ hx)
        · rcases List.mem_append.1 hx with hx | hx
          · exact h x (by simp [hx])
          · obtain ⟨b, _, rfl⟩ := s.joinCommand_claims id a x hx
            exact ⟨b, _, rfl⟩
        · change e ∈ (s.joinCommand id a).1.intake.table
          rw [State.joinCommand_table]
          exact List.mem_filter.2 ⟨he, by simpa using hid⟩
        · rcases List.mem_append.1 hx with hx | hx
          · exact hc x (by simp [hx])
          · obtain ⟨b, hbb, rfl⟩ := s.joinCommand_claims id a x hx
            rintro ⟨a', ha⟩
            exact hb (by simpa using (Claim.command.inj ha).1 ▸ hbb)
      · rw [State.handInUpTo_closed _ _ (by simpa using ho)]
        exact he

/-- Claims answered OK add completions answered OK to the backlog. -/
theorem State.handInUpTo_ok (n : Nat) : ∀ (claims : List Claim) (s : State), (∀ cl ∈ claims, cl.IsOk) →
    ∃ more, (State.handInUpTo n claims s).cpl.backlog = s.cpl.backlog ++ more ∧
      ∀ m ∈ more, m.status = .command .ok := by
  induction n with
  | zero =>
    intro claims s _
    cases claims with
    | nil => exact ⟨[], by simp [State.handInUpTo]⟩
    | cons cl rest => exact ⟨[], by simp [State.handInUpTo]⟩
  | succ n ih =>
    intro claims s h
    cases claims with
    | nil => exact ⟨[], by simp [State.handInUpTo]⟩
    | cons cl rest =>
      by_cases ho : s.backlogOpen = true
      · rw [State.handInUpTo_open n cl rest ho]
        obtain ⟨id, a, rfl, ha⟩ := h cl (by simp)
        obtain ⟨more, hm, hs⟩ := ih (rest ++ (s.joinCommand id a).2) (s.joinCommand id a).1 fun x hx => by
          rcases List.mem_append.1 hx with hx | hx
          · exact h x (by simp [hx])
          · obtain ⟨b, _, rfl⟩ := s.joinCommand_claims id a x hx
            exact ⟨b, _, rfl, rfl⟩
        refine ⟨((s.entry? id).toList.map fun e => e.completion a s.timeBase) ++ more, ?_, fun m hm' => ?_⟩
        · change (State.handInUpTo n _ (s.joinCommand id a).1).cpl.backlog = _
          rw [State.joinClaim, hm, State.joinCommand_backlog, List.append_assoc]
        · rcases List.mem_append.1 hm' with hm' | hm'
          · obtain ⟨e, _, rfl⟩ := List.mem_map.1 hm'
            exact ha
          · exact hs m hm'
      · rw [State.handInUpTo_closed _ _ (by simpa using ho)]
        exact ⟨[], by simp⟩

/-! ### The answer of one command -/

theorem State.backlogOpen_iff (s : State) :
    s.backlogOpen = true ↔ s.cpl.backlog.length < 32 ∧ s.cpl.claimants = [] := by
  simp only [State.backlogOpen, Bool.and_eq_true, decide_eq_true_eq, List.isEmpty_iff]

/-- A pending command whose completion is handed in is answered, and nothing else changes. -/
theorem State.handIn_answered {s : State} {p : PendingEntry} (h : s.entry? p.age = some p) (a : Answer) :
    Answered s (s.handIn [.command p.age a]) p a ∧ (s.handIn [.command p.age a]).apart = s.apart := by
  refine ⟨?_, State.handIn_apart (by simp [Claim.IsCommand])⟩
  unfold Answered
  by_cases ho : s.cpl.backlog.length < 32 ∧ s.cpl.claimants = []
  · rw [if_pos ho]
    have hb := s.backlogOpen_iff.2 ho
    have hj : s.handIn [.command p.age a] =
        State.handInUpTo 95 (s.joinCommand p.age a).2 (s.joinCommand p.age a).1 :=
      State.handInUpTo_open 95 _ _ hb
    have hok : ∀ cl ∈ (s.joinCommand p.age a).2, cl.IsOk := fun cl hcl => by
      obtain ⟨b, _, rfl⟩ := s.joinCommand_claims _ _ cl hcl
      exact ⟨b, _, rfl, rfl⟩
    rw [hj]
    refine ⟨?_, ?_, ?_⟩
    · obtain ⟨more, hm, hs⟩ := State.handInUpTo_ok 95 _ (s.joinCommand p.age a).1 hok
      refine ⟨more, ?_, hs⟩
      rw [hm, State.joinCommand_backlog, h]
      simp [completionOf, PendingEntry.completion, stampOf]
    · intro e he
      have := (State.handInUpTo_handedIn 95 fun cl hcl => (hok cl hcl).isCommand).table.subset he
      rw [State.joinCommand_table] at this
      simpa using (List.mem_filter.1 this).2
    · intro e he hne hbar
      refine State.handInUpTo_keeps 95 _ _ (fun cl hcl => (hok cl hcl).isCommand) e ?_ ?_ ?_
      · rw [State.joinCommand_table]
        exact List.mem_filter.2 ⟨he, by simpa using hne⟩
      · rintro cl hcl ⟨a', rfl⟩
        obtain ⟨b, hbb, hx⟩ := s.joinCommand_claims _ _ _ hcl
        exact hbar ((Claim.command.inj hx).1 ▸ hbb)
      · exact fun hx => hbar (s.joinCommand_barriers _ _ _ hx)
  · rw [if_neg ho]
    have hb : s.backlogOpen = false := by
      rw [← Bool.not_eq_true, s.backlogOpen_iff]
      exact ho
    have : s.handIn [.command p.age a] = s.wait [.command p.age a] := State.handInUpTo_closed _ _ hb
    rw [this]
    exact ⟨rfl, rfl, rfl⟩

/-- The answer of a command that has been taken does not look at the queue it was taken from. -/
theorem Answered.takeDispatched {s t : State} {r : RingId} {p : PendingEntry} {a : Answer}
    (h : Answered (s.takeDispatched r) t p a) : Answered s t p a := h

/-! ### Taking a command -/

/-- An owner takes the command that `Taken` names. -/
theorem Taken.ownerTakes {s : State} {r : RingId} {cmd : Command} {p : PendingEntry} (h : Taken s r cmd p)
    (act : Nat → State → State) : s.ownerTakes r cmd act = act p.age (s.takeDispatched r) := by
  simp [State.ownerTakes, h.2.1, h.1]

/-- A command that is taken and completes at once completes as it should. -/
theorem Taken.completes {s : State} {r : RingId} {cmd : Command} {p : PendingEntry} {i : Instr} {a : Answer}
    {u : State} (h : Taken s r cmd p) (hi : exec i s = .next (u.handIn [.command p.age a]))
    (hb : u.intake.table = s.intake.table) (hbar : u.intake.barriers = s.intake.barriers)
    (hc : u.cpl = s.cpl) (ht : u.timeBase = s.timeBase) : Completes s i p a u := by
  have he : u.entry? p.age = some p := by simpa [State.entry?, hb] using h.2.2
  obtain ⟨h1, h2⟩ := State.handIn_answered he a
  refine ⟨_, hi, ?_, h2⟩
  simpa only [Answered, hb, hbar, hc, ht] using h1

/-- One notice: it joins the backlog, or waits. -/
theorem State.handIn_notice (s : State) (n : NoticeStatus) (r : RingId) (head : Nat) (w0 w1 : Word) :
    s.handIn [.notice n r head w0 w1] =
      if s.backlogOpen then s.pushCompletion (noticeCompletion n r head w0 w1 s.timeBase)
      else s.wait [.notice n r head w0 w1] := by
  by_cases h : s.backlogOpen = true
  · rw [if_pos h]
    exact (State.handInUpTo_open 95 _ _ h).trans (State.handInUpTo_nil 95 _)
  · rw [if_neg h]
    exact State.handInUpTo_closed _ _ (by simpa using h)

/-! ### A command's join, whole -/

/-- Nothing handed in changes nothing. -/
theorem State.handIn_nil (s : State) : s.handIn [] = s := State.handInUpTo_nil _ _

/-- The join of a pending command, but for the BARRIERs it held back. -/
theorem State.joined_eq (s : State) (p : PendingEntry) (a : Answer) :
    s.joined p p.age a = { s with
      intake := { s.intake with table := s.intake.table.filter fun e => e.age != p.age }
      cpl := { s.cpl with backlog := s.cpl.backlog ++ [completionOf p a s.timeBase] }
      conv := { s.conv with cal := { s.conv.cal with
        entry := if s.conv.cal.entry = some p.age then none else s.conv.cal.entry } } } := by
  simp only [State.joined, State.endCalibration]
  split
  · next h => rw [if_pos (show s.conv.cal.entry = some p.age from h)]; rfl
  · next h => rw [if_neg (show ¬s.conv.cal.entry = some p.age from h)]; rfl

/-- The BARRIERs ready once a command's entry is free are those that waited for it alone (R23). -/
theorem State.readyBarriers_joined (s : State) (p : PendingEntry) (a : Answer) :
    (s.joined p p.age a).readyBarriers p.ring = barriersBehind s p := by
  simp only [State.readyBarriers, barriersBehind, State.joined_eq]
  refine List.filter_congr fun b _ => ?_
  rw [Bool.eq_iff_iff]
  simp only [Bool.and_eq_true, List.any_eq_true, List.all_eq_true, List.mem_filter, Bool.not_eq_true', Bool.or_eq_true,
    beq_iff_eq, bne_iff_ne, decide_eq_true_eq, List.any_eq_false]
  constructor
  · rintro ⟨⟨e, ⟨h1, h2⟩, h3, h4⟩, h5⟩
    refine ⟨⟨e, h1, ⟨h3, h4⟩, by rw [← h3]; exact h2⟩, fun x hx => ?_⟩
    by_cases h6 : x.age = p.age
    · exact .inr h6
    · by_cases h7 : x.ring = p.ring
      · exact .inl (.inr (Nat.le_of_not_lt fun h8 => h5 x ⟨hx, h6⟩ ⟨h7, h8⟩))
      · exact .inl (.inl h7)
  · rintro ⟨⟨e, h1, ⟨h3, h4⟩, h2⟩, h5⟩
    refine ⟨⟨e, ⟨h1, by rw [h3]; exact h2⟩, h3, h4⟩, fun x hx h => ?_⟩
    rcases h5 x hx.1 with (h6 | h6) | h6
    · exact h6 h.1
    · exact absurd h.2 (Nat.not_lt.2 h6)
    · exact hx.2 h6

/-- Everything a pending command's join does: it is answered, and the BARRIERs behind it claim next. -/
theorem State.joinCommand_eq {s : State} {p : PendingEntry} (h : s.entry? p.age = some p) (a : Answer) :
    s.joinCommand p.age a = (answeredBy s p a, barrierClaims s p) := by
  rw [State.joinCommand_some h, State.readyBarriers_joined]
  refine Prod.ext ?_ rfl
  simp only [State.dropBarriers, State.joined_eq, answeredBy]

/-- Answering one command leaves every other entry pending. -/
theorem State.entry_answeredBy {s : State} {p b : PendingEntry} (h : s.entry? b.age = some b) (hne : b.age ≠ p.age)
    (a : Answer) : (answeredBy s p a).entry? b.age = some b := by
  simp only [State.entry?, answeredBy] at h ⊢
  rw [List.find?_filter, ← h]
  congr 1
  funext e
  rw [Bool.eq_iff_iff]
  simp
  intro h3
  rw [h3]
  exact hne

end Sys2Proof.Machine
end

