-- ==== Sys2Proof/Laws/Bounds.lean ====
section
/-!
SUPPORT. What the shared operations leave within bounds: `Calm s t` says that from `s` to `t` the Host Link is kept, no
entry is added to the pending table, the backlog does not pass 32, and no context holds more than before. Every operation
of a run, and handing in, is calm. From it come the bounds that every step keeps.
-/

namespace Sys2Proof.Machine

open Sys2Proof

/-- A context record holds no more than another: the same slots and quota, and no more buffers. -/
structure Ctx.Within (y x : Ctx) : Prop where
  slots : y.slots = x.slots
  quota : y.cap.quota = x.cap.quota
  queue : y.cap.queue.length ≤ x.cap.queue.length

/-- From `s` to `t` nothing grows beyond its bounds, and the Host Link is kept. -/
structure Calm (s t : State) : Prop where
  link : t.link = s.link
  table : t.intake.table.length ≤ s.intake.table.length
  backlog : t.cpl.backlog.length ≤ max 32 s.cpl.backlog.length
  ctxs : ∀ c, (t.ctx c).Within (s.ctx c)

theorem Ctx.Within.refl (x : Ctx) : x.Within x := ⟨rfl, rfl, Nat.le_refl _⟩

theorem Ctx.Within.trans {x y z : Ctx} (h : z.Within y) (g : y.Within x) : z.Within x :=
  ⟨h.slots.trans g.slots, h.quota.trans g.quota, h.queue.trans g.queue⟩

theorem Calm.refl (s : State) : Calm s s := ⟨rfl, Nat.le_refl _, by omega, fun _ => .refl _⟩

theorem Calm.trans {s t u : State} (h : Calm s t) (g : Calm t u) : Calm s u :=
  ⟨g.link.trans h.link, g.table.trans h.table, by have := h.backlog; have := g.backlog; omega,
    fun c => (g.ctxs c).trans (h.ctxs c)⟩

/-- An update of parts that no bound looks at is calm. -/
theorem Calm.of_same {s t : State} (hl : t.link = s.link) (hi : t.intake.table = s.intake.table)
    (hc : t.cpl.backlog = s.cpl.backlog) (hx : t.ctxs = s.ctxs) : Calm s t :=
  ⟨hl, by rw [hi], by rw [hc]; omega, fun c => by rw [State.ctx_congr hx]; exact .refl _⟩

/-! ### What the contexts hold together -/

/-- Replacing one member of a list changes a sum over it by the difference. -/
theorem sum_map_set {α : Type} (f : α → Nat) (a : α) : ∀ (l : List α) (i : Nat) (h : i < l.length),
    ((l.set i a).map f).sum + f l[i] = (l.map f).sum + f a
  | x :: l, 0, _ => by simp; omega
  | x :: l, i + 1, h => by
    have := sum_map_set f a l i (by simpa using h)
    simp only [List.set_cons_succ, List.map_cons, List.sum_cons, List.getElem_cons_succ]
    omega

/-- A sum over the context table after one record has been replaced. -/
theorem State.sum_setCtx (s : State) (f : Ctx → Nat) (c : CtxId) (x : Ctx) :
    ((s.setCtx c x).ctxs.toList.map f).sum + f (s.ctx c) = (s.ctxs.toList.map f).sum + f x := by
  have := sum_map_set f x s.ctxs.toList c.val (by simp)
  have hs : (s.setCtx c x).ctxs.toList = s.ctxs.toList.set c.val x := Vector.toList_set c.isLt
  rw [hs]
  simpa only [State.ctx, Vector.getElem_toList] using this

/-- What one context holds is no more than what all hold. -/
theorem State.le_sum_ctxs (s : State) (f : Ctx → Nat) (c : CtxId) : f (s.ctx c) ≤ (s.ctxs.toList.map f).sum :=
  List.le_sum_of_mem (List.mem_map.2 ⟨_, by simp [State.ctx], rfl⟩)

/-- Where every context holds as much as before, so do all together. -/
theorem State.sum_congr {s t : State} (f : Ctx → Nat) (h : ∀ c, f (t.ctx c) = f (s.ctx c)) :
    (t.ctxs.toList.map f).sum = (s.ctxs.toList.map f).sum := by
  congr 1
  refine List.ext_getElem (by simp) fun i h1 _ => ?_
  have hi : i < 8 := by simpa using h1
  simpa [State.ctx] using h ⟨i, hi⟩

/-! ### One context's record -/

theorem Calm.setCtx {s : State} {c : CtxId} {x : Ctx} (h : x.Within (s.ctx c)) : Calm s (s.setCtx c x) := by
  refine ⟨rfl, Nat.le_refl _, by simp, fun d => ?_⟩
  rw [State.ctx_setCtx]
  split
  · next hd => exact hd ▸ h
  · exact .refl _

theorem Calm.modCtx {s : State} (c : CtxId) {f : Ctx → Ctx} (h : ∀ x, (f x).Within x) : Calm s (s.modCtx c f) :=
  .setCtx (h _)

/-- A change of the run, the pacing record, the state or the store is within. -/
theorem Ctx.Within.of_same {x y : Ctx} (h1 : y.slots = x.slots) (h2 : y.cap.quota = x.cap.quota)
    (h3 : y.cap.queue = x.cap.queue) : y.Within x := ⟨h1, h2, by rw [h3]⟩

theorem Ctx.giveUpFrames_within (x : Ctx) : x.giveUpFrames.Within x := by
  unfold Ctx.giveUpFrames
  split
  · exact .of_same rfl rfl rfl
  · exact .refl _

theorem Ctx.openPartial_within (x : Ctx) : x.openPartial.Within x := by
  unfold Ctx.openPartial
  split
  · next hq =>
    split
    · exact ⟨rfl, rfl, by simp [hq]⟩
    · exact .refl _
  · exact .refl _

theorem Ctx.clearLimit_within (x : Ctx) : x.clearLimit.Within x := by
  unfold Ctx.clearLimit
  split
  · exact .of_same rfl rfl rfl
  · exact .refl _

theorem Ctx.settled_within (x : Ctx) : x.settled.Within x := by
  unfold Ctx.settled
  split
  · exact (Ctx.clearLimit_within _).trans ((Ctx.openPartial_within _).trans x.giveUpFrames_within)
  · exact .refl _

theorem Ctx.dropReturn_within (x : Ctx) : x.dropReturn.Within x := .of_same rfl rfl rfl

theorem Ctx.dropHead_within (x : Ctx) : x.dropHead.Within x := ⟨rfl, rfl, by simp [Ctx.dropHead]⟩

theorem Ctx.leaveRun_within (x : Ctx) (r : EndReason) : (x.leaveRun r).Within x := .of_same rfl rfl rfl

theorem Ctx.endPacing_within (x : Ctx) : x.endPacing.Within x := .of_same rfl rfl rfl

theorem Ctx.freeTick_within (x : Ctx) : x.freeTick.Within x := .of_same rfl rfl rfl

theorem Ctx.latch_within (x : Ctx) : x.latch.Within x := .of_same rfl rfl rfl

theorem Ctx.toStopping_within (x : Ctx) (r : EndReason) : (x.toStopping r).Within x := .of_same rfl rfl rfl

theorem Ctx.discardFilling_within (x : Ctx) : x.discardFilling.Within x := by
  unfold Ctx.discardFilling
  split <;> exact .of_same rfl rfl rfl

theorem Ctx.withdrawScan_within (x : Ctx) : x.withdrawScan.Within x := .of_same rfl rfl rfl

theorem Ctx.stopRun_within (x : Ctx) (r : EndReason) : (x.stopRun r).Within x := by
  unfold Ctx.stopRun
  split
  · split
    · exact (Ctx.toStopping_within _ _).trans x.withdrawScan_within
    · exact x.toStopping_within r
  · exact (Ctx.toStopping_within _ _).trans x.discardFilling_within

theorem Ctx.faultEnd_within (x : Ctx) (r : EndReason) : (x.faultEnd r).Within x :=
  Ctx.Within.trans (y := x.discardFilling.toStopping r) (.of_same rfl rfl rfl)
    ((Ctx.toStopping_within _ _).trans x.discardFilling_within)

theorem Ctx.endInArmed_within (x : Ctx) (r : EndReason) : (x.endInArmed r).Within x := .of_same rfl rfl rfl

theorem Ctx.returnQueue_within (x : Ctx) : x.returnQueue.Within x := ⟨rfl, rfl, Nat.zero_le _⟩

theorem Ctx.abortRun_within (x : Ctx) : x.abortRun.Within x := ⟨rfl, rfl, Nat.zero_le _⟩

theorem Ctx.abortArmed_within (x : Ctx) : x.abortArmed.Within x := ⟨rfl, rfl, Nat.zero_le _⟩

theorem Ctx.triggered_within (x : Ctx) (now : Time) : (x.triggered now).Within x := .of_same rfl rfl rfl

theorem Ctx.beginHistory_within (x : Ctx) (f : Frame) : (x.beginHistory f).Within x := .of_same rfl rfl rfl

theorem Ctx.doneIfCounted_within (x : Ctx) : x.doneIfCounted.Within x := by
  unfold Ctx.doneIfCounted
  split
  · exact x.toStopping_within _
  · exact .refl _

theorem Ctx.beginScan_within (x : Ctx) (f : Frame) : (x.beginScan f).Within x := by
  unfold Ctx.beginScan
  split
  · exact .of_same rfl rfl rfl
  · split
    · exact (Ctx.doneIfCounted_within _).trans (.of_same rfl rfl rfl)
    · exact x.faultEnd_within _

theorem Ctx.slipped_within (x : Ctx) : x.slipped.Within x := by
  unfold Ctx.slipped
  split
  · simp only
    split
    · exact .of_same rfl rfl rfl
    · exact (Ctx.faultEnd_within _ _).trans (.of_same rfl rfl rfl)
  · exact .refl _
  · exact .refl _

theorem Ctx.grantEnded_within (x : Ctx) : x.grantEnded.Within x := by
  unfold Ctx.grantEnded
  simp only
  split
  · exact (Ctx.doneIfCounted_within _).trans (.of_same rfl rfl rfl)
  · split
    · exact .of_same rfl rfl rfl
    · split
      · exact .of_same rfl rfl rfl
      · exact (Ctx.doneIfCounted_within _).trans (.of_same rfl rfl rfl)

/-! ### Handing in -/

theorem State.runEvent_same (s : State) (ev : RunEvent) (c : CtxId) :
    (s.runEvent ev c).1 = { s with outs := (s.runEvent ev c).1.outs } := by
  have h : ∀ (u : State) (o : Fin 2), (u.applyUpdate ev c o).1 = { u with outs := (u.applyUpdate ev c o).1.outs } := by
    intro u o
    unfold State.applyUpdate
    split
    · split <;> rfl
    · rfl
  simp only [State.runEvent]
  rw [h (s.applyUpdate ev c 0).1 1, h s 0]

theorem State.cancelUpdates_same (s : State) (c : CtxId) :
    (s.cancelUpdates c).1 = { s with outs := (s.cancelUpdates c).1.outs } := by
  have h : ∀ (u : State) (o : Fin 2), (u.cancelUpdate c o).1 = { u with outs := (u.cancelUpdate c o).1.outs } := by
    intro u o
    unfold State.cancelUpdate
    split
    · split <;> rfl
    · rfl
  simp only [State.cancelUpdates]
  rw [h (s.cancelUpdate c 0).1 1, h s 0]

theorem Calm.runEvent (s : State) (ev : RunEvent) (c : CtxId) : Calm s (s.runEvent ev c).1 := by
  rw [s.runEvent_same]
  exact .of_same rfl rfl rfl rfl

theorem Calm.cancelUpdates (s : State) (c : CtxId) : Calm s (s.cancelUpdates c).1 := by
  rw [s.cancelUpdates_same]
  exact .of_same rfl rfl rfl rfl

theorem Calm.pushCompletion {s : State} (h : s.cpl.backlog.length < 32) (m : Completion) :
    Calm s (s.pushCompletion m) := by
  refine ⟨rfl, Nat.le_refl _, ?_, fun _ => .refl _⟩
  simp only [State.pushCompletion_cpl, List.length_append, List.length_singleton]
  omega

theorem Calm.joinCommand {s : State} (h : s.cpl.backlog.length < 32) (id : Nat) (a : Answer) :
    Calm s (s.joinCommand id a).1 := by
  have hap := s.joinCommand_apart id a
  refine ⟨State.apart_link hap, ?_, ?_, fun c => ?_⟩
  · rw [State.joinCommand_table]
    exact List.length_filter_le _ _
  · rw [State.joinCommand_backlog]
    cases s.entry? id with
    | none => simp
    | some e => simp; omega
  · rw [State.ctx_congr (State.apart_ctxs hap)]
    exact .refl _

theorem Calm.joinBuffer {s : State} (h : s.cpl.backlog.length < 32) (c : CtxId) (b : Buffer) (st : BufferStatus) :
    Calm s (s.joinBuffer c b st) := (Calm.pushCompletion h _).trans (.of_same rfl rfl rfl rfl)

theorem Calm.joinTail {s : State} (h : s.cpl.backlog.length < 32) (c : CtxId) (items : List TailItem) :
    Calm s (s.joinTail c items).1 := by
  unfold State.joinTail
  split
  · exact .runEvent _ _ _
  · simp only
    split
    · exact (Calm.joinCommand h _ _).trans (.runEvent _ _ _)
    · exact Calm.joinCommand h _ _

theorem Calm.joinArm {s : State} (h : s.cpl.backlog.length < 32) (c : CtxId) (e : Nat) (r : EndReason) :
    Calm s (s.joinArm c e r).1 := by
  have h1 := (Calm.joinCommand h e ((s.ctx c).run.armAnswer r)).trans
    (Calm.modCtx c fun x => x.leaveRun_within r)
  unfold State.joinArm
  simp only
  split
  · exact h1.trans (.runEvent _ _ _)
  · exact h1

theorem Calm.joinContext {s : State} (h : s.cpl.backlog.length < 32) (c : CtxId) : Calm s (s.joinContext c).1 := by
  unfold State.joinContext
  split
  · exact .refl _
  · exact (Calm.joinBuffer h _ _ _).trans (.modCtx _ fun x => x.dropReturn.settled_within.trans x.dropReturn_within)
  · exact (Calm.modCtx (s := s) c Ctx.dropReturn_within).trans (Calm.joinCommand (by simpa using h) _ _)
  · exact (Calm.joinBuffer h _ _ _).trans (.modCtx _ fun x => x.dropHead.settled_within.trans x.dropHead_within)
  · exact Calm.joinArm h _ _ _

theorem Calm.joinClaim {s : State} (h : s.cpl.backlog.length < 32) (cl : Claim) : Calm s (s.joinClaim cl).1 := by
  cases cl with
  | command id a => exact Calm.joinCommand h id a
  | context c => exact Calm.joinContext h c
  | runTail c items => exact Calm.joinTail h c items
  | notice n r k w0 w1 => exact Calm.pushCompletion h _

theorem Calm.wait (s : State) (claims : List Claim) : Calm s (s.wait claims) := .of_same rfl rfl rfl rfl

theorem Calm.handInUpTo (n : Nat) : ∀ (claims : List Claim) (s : State), Calm s (State.handInUpTo n claims s) := by
  induction n with
  | zero =>
    intro claims s
    cases claims with
    | nil => exact .refl _
    | cons cl rest => exact .wait _ _
  | succ n ih =>
    intro claims s
    cases claims with
    | nil => exact .refl _
    | cons cl rest =>
      by_cases ho : s.backlogOpen = true
      · rw [State.handInUpTo_open n cl rest ho]
        exact (Calm.joinClaim (s.backlogOpen_iff.1 ho).1 cl).trans (ih _ _)
      · rw [State.handInUpTo_closed _ _ (by simpa using ho)]
        exact .wait _ _

theorem Calm.handIn (s : State) (claims : List Claim) : Calm s (s.handIn claims) := .handInUpTo _ _ _

theorem Calm.complete (s : State) (e : Nat) (st : Status) (w0 w1 w2 : Word) : Calm s (s.complete e st w0 w1 w2) :=
  .handIn _ _

theorem Calm.settleCtx (s : State) (c : CtxId) : Calm s (s.settleCtx c) :=
  (Calm.modCtx c Ctx.settled_within).trans (.handIn _ _)

/-! ### The converter and runs -/

theorem Calm.grantTo (s : State) (c : CtxId) : Calm s (s.grantTo c) :=
  Calm.trans (t := s.setCtx c { s.ctx c with pacing := { (s.ctx c).pacing with tick := .granted } })
    (.setCtx (.of_same rfl rfl rfl)) (.of_same rfl rfl rfl rfl)

theorem Calm.arbitrate (s : State) : Calm s s.arbitrate := by
  unfold State.arbitrate
  split
  · split
    · exact .of_same rfl rfl rfl rfl
    · split
      · exact .grantTo _ _
      · exact .refl _
  · exact .refl _

theorem Calm.takeBackGrant (s : State) (c : CtxId) : Calm s (s.takeBackGrant c) := by
  unfold State.takeBackGrant
  split
  · exact ((Calm.of_same rfl rfl rfl rfl : Calm s s.freeConverter).trans (.modCtx c Ctx.freeTick_within)).trans
      (.arbitrate _)
  · exact .refl _

theorem Calm.limitCheck (s : State) (n : ChanId) (code : Half) (c : CtxId) (t : Time) :
    Calm s (s.limitCheck n code c t).1 := by
  unfold State.limitCheck
  simp only
  split <;> exact .of_same rfl rfl rfl rfl

theorem Calm.reportLimit (s : State) (e : LimitEvent) : Calm s (s.reportLimit e) := by
  unfold State.reportLimit
  simp only
  split
  · next h =>
    exact (Calm.pushCompletion (s.backlogOpen_iff.1 h.2.2).1 _).trans (.of_same rfl rfl rfl rfl)
  · exact .refl _

theorem Calm.takeTrigger (s : State) (c : CtxId) : Calm s (s.takeTrigger c) := by
  unfold State.takeTrigger
  simp only
  refine ((Calm.modCtx c fun x => x.triggered_within s.timeBase).trans ?_).trans
    ((Calm.runEvent _ _ _).trans (.handIn _ _))
  split
  · exact .of_same rfl rfl rfl rfl
  · exact .refl _

theorem Calm.scanBegins (s : State) (c : CtxId) : Calm s (s.scanBegins c) := by
  unfold State.scanBegins
  simp only
  refine Calm.trans ?_ (.arbitrate _)
  have pulses : ∀ t : State, Calm t (t.pulse c .scanStart) := fun t => .of_same rfl rfl rfl rfl
  split
  · exact (Calm.setCtx (Ctx.beginHistory_within _ _)).trans (pulses _)
  · exact (Calm.setCtx (Ctx.beginScan_within _ _)).trans (pulses _)
  · exact (Calm.setCtx (Ctx.beginScan_within _ _)).trans (pulses _)

theorem Calm.deliverTick (s : State) (c : CtxId) : Calm s (s.deliverTick c).1 := by
  unfold State.deliverTick
  simp only
  split
  · exact .refl _
  · split
    · split
      · split
        · exact .refl _
        · exact .scanBegins _ _
      · exact (Calm.modCtx c Ctx.latch_within).trans (.arbitrate _)
    · exact .modCtx c Ctx.slipped_within

theorem Calm.tickContext (s : State) (c : CtxId) : Calm s (s.tickContext c) :=
  (Calm.deliverTick s c).trans (.settleCtx _ _)

theorem Calm.endSlot (s : State) (g : Grant) : Calm s (s.endSlot g) := by
  unfold State.endSlot
  split
  · exact .of_same rfl rfl rfl rfl
  · exact (((Calm.of_same rfl rfl rfl rfl : Calm s s.freeConverter).trans
      (.modCtx g.ctx Ctx.grantEnded_within)).trans (.arbitrate _)).trans (.settleCtx _ _)

theorem Calm.foldl {α : Type} {f : State → α → State} (h : ∀ s a, Calm s (f s a)) (l : List α) (s : State) :
    Calm s (l.foldl f s) := by
  induction l generalizing s with
  | nil => exact .refl _
  | cons a l ih => exact (h s a).trans (ih _)

theorem Calm.limitTrigger (s : State) (e : LimitEvent) (c : CtxId) : Calm s (s.limitTrigger e c) := by
  unfold State.limitTrigger
  simp only
  split
  · exact .takeTrigger _ _
  · exact .refl _

theorem Calm.placeSample (s : State) (c : CtxId) (pos : Nat) (code : Half) :
    Calm s (s.modCtx c (·.placeSample pos code)) := .modCtx c fun _ => .of_same rfl rfl rfl

theorem Calm.takeLimit (s : State) (e : LimitEvent) (order : List CtxId) : Calm s (s.takeLimit e order) :=
  (Calm.reportLimit s e).trans (.foldl (fun s c => .limitTrigger s e c) _ _)

theorem Calm.handSample (s : State) (g : Grant) (raw : Half) (order : List CtxId) :
    Calm s (s.handSample g raw order) := by
  unfold State.handSample
  split
  · exact .placeSample _ _ _ _
  · next ch _ gain range _ =>
    simp only
    generalize CorrEntry.correct _ raw = code
    have h := (Calm.placeSample s g.ctx g.slot.pos code).trans (Calm.limitCheck _ ch code g.ctx g.slot.start)
    split
    · exact h
    · exact h.trans (.takeLimit _ _ _)

theorem Calm.edgeForContext (s : State) (l : LineId) (e : Edge) (c : CtxId) : Calm s (s.edgeForContext l e c) := by
  unfold State.edgeForContext
  simp only
  split
  · exact (Calm.modCtx c fun x => x.stopRun_within _).trans (.settleCtx _ _)
  · have h : Calm s (if (s.ctx c).pacing.watcher = .start ∧ (s.ctx c).definition.start = .line l e then
        s.takeTrigger c else s) := by
      split
      · exact .takeTrigger _ _
      · exact .refl _
    split
    · exact h.trans (.tickContext _ _)
    · exact h

theorem Calm.takeEdge (l : LineId) (e : Edge) (s : State) (x : EdgeTaker) : Calm s (s.takeEdge l e x) := by
  cases x
  · exact .of_same rfl rfl rfl rfl
  · simp only [State.takeEdge]
    split
    · exact .edgeForContext _ _ _ _
    · exact .refl _

theorem Ctx.readScan_within (y x : Ctx) (shown : Half → Half) : (y.readScan x shown).Within y := by
  unfold Ctx.readScan
  split
  · exact .refl _
  · exact .of_same rfl rfl rfl

theorem Calm.readBy (t s : State) (r : ReadOrder) : Calm t (t.readBy s r) :=
  ⟨by simp, by simp, by simp, fun c => by simpa using Ctx.readScan_within _ _ _⟩

theorem Calm.haltRing (s : State) (r : RingId) (n : NoticeStatus) (w0 w1 : Word) :
    Calm s (s.haltRing r n w0 w1) := by
  unfold State.haltRing
  exact Calm.trans (t := { s.setRing r { s.ring r with state := .halted } with
    intake := { (s.setRing r { s.ring r with state := .halted }).intake with
      turnOver := s.intake.turnOver || s.intake.current == some r } })
    (.of_same rfl rfl rfl rfl) (.handIn _ _)

end Sys2Proof.Machine
end

