-- ==== Sys2Proof/Laws/Operations.lean ====
section
/-!
SUPPORT. One lemma for each shared operation that says everything it does: the INT_ENABLE bit and the tests of R193, the
slot of a position, a run event at the outputs, the flush of an open buffer, the readings of an event, and orders.
-/

namespace Sys2Proof.Machine

open Sys2Proof

/-! ### Interrupt messages -/

theorem withoutMessages_eq (l : List Class1) : withoutMessages l = l.filter Class1.isRecord := by
  unfold withoutMessages
  congr 1

/-- Everything a write of the INT_ENABLE bit does before the tests. -/
theorem HostLink.setIntEnable_eq (h : HostLink) (v : Bool) : h.setIntEnable v = { h with
    regs := { h.regs with intEnable := v }
    bus := { h.bus with class1 := if v then h.bus.class1 else withoutMessages h.bus.class1 } } := by
  cases v <;> simp [HostLink.setIntEnable, Bus.dropMessages, withoutMessages_eq]

theorem HostLink.interrupt_eq (h : HostLink) (cause : IntCause) : h.interrupt cause = messageOf h cause := by
  simp only [HostLink.interrupt, HostLink.queueMessage, messageOf]
  split <;> rfl

theorem HostLink.deadlineReached_iff (h : HostLink) (now : Time) :
    h.deadlineReached now = true ↔ ∃ d, h.deadline = some d ∧ d.toNat ≤ now.toNat := by
  unfold HostLink.deadlineReached
  cases h.deadline <;> simp [timeReached]

/-- Everything the tests of R193 do. -/
theorem HostLink.retest_eq (h : HostLink) (now : Time) :
    h.retest now =
      if h.regs.intEnable = true ∧ h.device = .online then
        if h.regs.intCount.toNat ≤ h.unsignalled then messageOf h .count
        else if h.deadlineReached now = true then messageOf h .time
        else h
      else h := by
  simp only [HostLink.retest, HostLink.signals, HostLink.countReached, HostLink.interrupt_eq, Bool.and_eq_true,
    beq_iff_eq, decide_eq_true_eq]

/-! ### Readings at the instant of a change -/

/-- A line of a snapshot, at its moment. -/
theorem snapshotBy_getLsbD (ms : List Moment) (s t : State) (v : Half) (l : Fin 16) :
    (snapshotBy ms s.lineSnapshot v t.lineSnapshot).getLsbD l.val =
      match ms[l.val]? with
      | some .before => s.lineLevel l
      | some .after => t.lineLevel l
      | some .between | none => v.getLsbD l.val := by
  simp only [snapshotBy, State.lineSnapshot, BitVec.getLsbD_ofFnLE, List.getD_eq_getElem?_getD]
  rcases ms[l.val]? with _ | (_ | _ | _) <;> simp [shownAt]

theorem snapshotBy_eq (ms : List Moment) (s t : State) (v : Half) :
    snapshotBy ms s.lineSnapshot v t.lineSnapshot = BitVec.ofFnLE fun l : Fin 16 =>
      match ms[l.val]? with
      | some .before => s.lineLevel l
      | some .after => t.lineLevel l
      | some .between | none => v.getLsbD l.val := by
  refine BitVec.eq_of_getLsbD_eq fun i hi => ?_
  rw [snapshotBy_getLsbD ms s t v ⟨i, hi⟩, BitVec.getLsbD_ofFnLE]
  simp [hi]

theorem scanLinesShown_eq (r : ReadOrder) (s t : State) (c : CtxId) (v : Half) :
    scanLinesShown r s t c v = BitVec.ofFnLE fun l : Fin 16 =>
      if (t.line l).mode = .event c .scanStart then v.getLsbD l.val
      else
        match (r.scans.getD c.val [])[l.val]? with
        | some .before => s.lineLevel l
        | some .after => t.lineLevel l
        | some .between | none => v.getLsbD l.val := by
  simp only [scanLinesShown, snapshotBy_getLsbD, Line.follows, beq_iff_eq]

/-- When the first count a slot can read is the one its own run start has zeroed. -/
theorem zeroedBeforeTick_iff (s t : State) (c : CtxId) :
    zeroedBeforeTick s t c = true ↔ (s.ctx c).state = .armed ∧ (t.ctx c).state = .running ∧
      (s.ctx c).pacing.tick = .free ∧ (t.ctx c).definition.clearCounters = true := by
  simp [zeroedBeforeTick, and_assoc]

theorem pseudoShown_eq (r : ReadOrder) (s t : State) (c : CtxId) (input : Nat) (v : Half) :
    pseudoShown r s t c input v =
      if input = 32 then BitVec.ofFnLE fun l : Fin 16 =>
        match r.lines[l.val]? with
        | some .before => s.lineLevel l
        | some .after => t.lineLevel l
        | some .between | none => v.getLsbD l.val
      else
        match r.count with
        | .before =>
          if (s.ctx c).state = .armed ∧ (t.ctx c).state = .running ∧ (s.ctx c).pacing.tick = .free ∧
            (t.ctx c).definition.clearCounters = true then 0
          else BitVec.ofNat 16 (s.counter (if input = 33 then 0 else 1)).count.toNat
        | .between => v
        | .after => BitVec.ofNat 16 (t.counter (if input = 33 then 0 else 1)).count.toNat := by
  have low : ∀ (u : State) (k : Fin 2), u.countRead k = BitVec.ofNat 16 (u.counter k).count.toNat := fun u k => by
    simp [State.countRead]
  simp only [pseudoShown, firstCount, zeroedBeforeTick_iff, snapshotBy_eq, low]
  cases r.count <;> simp only [shownAt] <;> split <;> (try rfl) <;> split <;> rfl

theorem State.readSlot_eq (t s : State) (r : ReadOrder) :
    t.readSlot s r = { t with conv := { t.conv with holder := (t.readSlot s r).conv.holder } } := by
  unfold State.readSlot
  split
  · split
    · split <;> rfl
    · rfl
  · rfl
  · rfl

/-- Everything an event's choice of moments does. -/
theorem State.readBy_eq (t s : State) (r : ReadOrder) : t.readBy s r = readInOrder r s t := by
  have hx : (fun c : Fin 8 => (t.ctx c).readScan (s.ctx c) (scanLinesShown r s t c)) =
      fun c => (readInOrder r s t).ctx c := by
    funext c
    simp only [readInOrder, State.ctx, Vector.getElem_ofFn, Ctx.readScan, Ctx.hasFilling, Frame.relined,
      Frame.isFilling, scanLinesShown_eq, beq_iff_eq]
    rfl
  have hc : (t.readSlot s r).conv.holder = (readInOrder r s t).conv.holder := by
    simp only [readInOrder, State.readSlot, pseudoShown_eq]
    rcases hh : t.conv.holder with _ | g | _ <;> simp only [hh]
    rcases hg : g.slot.input with ⟨ch, m, gn, rg⟩ | v <;> simp only [hg, hh]
    by_cases h : s.conv.holder = .context g
    · exact (congrArg (fun u : State => u.conv.holder) (if_pos h.symm)).trans (hh.trans (if_pos h).symm)
    · exact (congrArg (fun u : State => u.conv.holder) (if_neg fun e => h e.symm)).trans (if_neg h).symm
  have hv : (Vector.ofFn fun c : Fin 8 => (readInOrder r s t).ctx c) = (readInOrder r s t).ctxs := by
    ext i hi
    simp [State.ctx]
  simp only [State.readBy]
  rw [State.readSlot_eq, hc, hx, hv]
  rfl

/-- An event that begins no slot and no scan makes no reading. -/
theorem State.readBy_same {t s : State} (r : ReadOrder) (hc : t.conv.holder = s.conv.holder)
    (hs : ∀ c, (t.ctx c).hasFilling = true → (s.ctx c).hasFilling = true) : t.readBy s r = t := by
  have h1 : t.readSlot s r = t := by
    unfold State.readSlot
    split
    · split
      · rw [if_pos hc]
      · rfl
    · rfl
    · rfl
  have h2 : ∀ c : Fin 8, (t.ctx c).readScan (s.ctx c) (scanLinesShown r s t c) = t.ctx c := by
    intro c
    unfold Ctx.readScan
    split
    · rfl
    · next h =>
      have hf : ∀ f ∈ (t.ctx c).cap.store, f.relined (scanLinesShown r s t c) = f := fun f hf => by
        unfold Frame.relined
        rw [if_neg]
        exact fun hi => h (hs c (List.any_eq_true.2 ⟨f, hf, hi⟩))
      rw [List.map_congr_left hf, List.map_id']
  simp only [State.readBy, h1, h2]
  congr 1
  ext i hi
  simp [State.ctx]

/-! ### Orders -/

/-- An order that names every member once is kept as it stands. -/
theorem completeOrder_full {α : Type} [DecidableEq α] {all order : List α} (h : order.Nodup)
    (hm : ∀ x ∈ all, x ∈ order) : completeOrder all order = order := by
  have take : ∀ (l seen : List α), (seen ++ l).Nodup →
      l.foldl (fun seen x => if seen.contains x then seen else seen ++ [x]) seen = seen ++ l := by
    intro l
    induction l with
    | nil => simp
    | cons x l ih =>
      intro seen hn
      have hx : x ∉ seen := fun hx => (List.nodup_append.1 hn).2.2 x hx x (by simp) rfl
      rw [List.foldl_cons, if_neg (by simpa using hx), ih _ (by simpa using hn)]
      simp
  have skip : ∀ (l seen : List α), (∀ x ∈ l, x ∈ seen) →
      l.foldl (fun seen x => if seen.contains x then seen else seen ++ [x]) seen = seen := by
    intro l
    induction l with
    | nil => simp
    | cons x l ih =>
      intro seen hs
      rw [List.foldl_cons, if_pos (by simpa using hs x (by simp))]
      exact ih _ fun y hy => hs y (by simp [hy])
  rw [completeOrder, List.foldl_append, take order [] (by simpa using h), List.nil_append]
  exact skip all order hm

/-! ### Slots -/

/-- The step of a position (R45). -/
theorem stepAt_positionOf {st : Step} {behind : List Step} : ∀ {before : List Step} {pos : Nat},
    (before.map fun e => e.reps).sum ≤ pos → pos < (before.map fun e => e.reps).sum + st.reps →
    stepAt (before ++ st :: behind) pos = some st := by
  intro before
  induction before with
  | nil => intro pos _ h2; simp at h2; simp [stepAt, h2]
  | cons e l ih =>
    intro pos h1 h2
    simp only [List.map_cons, List.sum_cons] at h1 h2
    simp only [List.cons_append, stepAt]
    rw [if_neg (by omega)]
    exact ih (by omega) (by omega)

/-- Everything the slot of a position is, for a step that R54 accepts. -/
theorem State.slotAt_eq {s : State} {c : CtxId} {pos : Nat} {st : Step} (hp : PositionOf (s.ctx c).steps pos st)
    (hi : st.input ≤ 34) (hg : st.gain ≤ 7 ∨ st.gain = 15) (start : Time) :
    s.slotAt c pos start = slotOf s st pos start := by
  obtain ⟨before, behind, h0, h1, h2⟩ := hp
  have hs : (s.ctx c).stepOf pos = st := by
    simp only [Ctx.stepOf]
    rw [h0, stepAt_positionOf h1 h2]
    rfl
  have hc : st.slotCounts = if st.input < 32 then 20 * (1 + st.settle) else 20 := by
    simp only [Step.slotCounts, Step.isPseudo]
    by_cases h : st.input < 32
    · simp [h, show ¬32 ≤ st.input by omega]
    · simp [h, show 32 ≤ st.input by omega]
  have hin : s.slotInput st = inputOf s st := by
    simp only [State.slotInput, inputOf]
    by_cases h : st.input < 32
    · rw [dif_pos h, if_pos h]
      have e1 : (⟨st.input, h⟩ : ChanId) = Fin.ofNat 32 st.input := by ext; simp [Nat.mod_eq_of_lt h]
      have e2 : ∀ g, (if st.gain ≤ 7 then st.gain else g) = if st.gain = 15 then g else st.gain := fun g => by
        rcases hg with hg | hg
        · rw [if_pos hg, if_neg (by omega)]
        · rw [if_neg (by omega), if_pos hg]
      rw [e1, e2]
    · rw [dif_neg h, if_neg h]
      by_cases h2 : st.input = 32
      · rw [if_pos h2, if_pos h2]
        rfl
      · rw [if_neg h2, if_neg h2]
        have hw : ∀ v : Word, v.setWidth 16 = BitVec.ofNat 16 v.toNat := fun v => by
          apply BitVec.eq_of_toNat_eq
          simp
        rw [hw, hw]
        split <;> rfl
  simp only [State.slotAt, hs, slotOf, hc, hin]
  rfl

/-! ### Run events at the outputs -/

/-- Everything a run event does at one output (R177). -/
theorem State.applyUpdate_eq (s : State) (event : RunEvent) (c : CtxId) (o : Fin 2) :
    s.applyUpdate event c o =
      (s.setOut o (outputAfter (s.out o) event c), outputClaim o (s.out o) event c s.timeBase) := by
  unfold State.applyUpdate outputAfter outputClaim
  have hs : s.setOut o (s.out o) = s := by simp [State.setOut, State.out]
  cases (s.out o).update with
  | none => simp [hs]
  | some d =>
    simp only
    by_cases hc : d.event = event ∧ d.ctx = c
    · rw [if_pos hc, if_pos hc, if_pos hc]
      rfl
    · rw [if_neg hc, if_neg hc, if_neg hc, hs]

/-- Everything a run event does (R177). -/
theorem State.runEvent_eq (s : State) (event : RunEvent) (c : CtxId) :
    s.runEvent event c =
      ({ s with outs := s.outs.map fun o => outputAfter o event c }, runEventClaims s event c) := by
  have h1 : (s.setOut 0 (outputAfter (s.out 0) event c)).out 1 = s.out 1 := by
    rw [State.out_setOut]
    simp
  simp only [State.runEvent, State.applyUpdate_eq, h1]
  refine Prod.ext ?_ rfl
  have : (s.outs.set 0 (outputAfter (s.out 0) event c)).set 1 (outputAfter (s.out 1) event c) =
      s.outs.map fun o => outputAfter o event c := by
    apply Vector.ext
    intro i hi
    have : i = 0 ∨ i = 1 := by omega
    rcases this with rfl | rfl <;> simp [State.out]
  simp only [State.setOut]
  congr 1

/-! ### The flush -/

/-- A flush leaves a context alone whose queue has no open buffer at its head that is not due (R154). -/
theorem Ctx.openPartial_closed {x : Ctx}
    (h : ∀ b behind, x.cap.queue = b :: behind → b.opened = false ∨ b.due ≠ none) : x.openPartial = x := by
  simp only [Ctx.openPartial]
  split
  · next b rest hs hq =>
    rw [if_neg]
    rintro ⟨u, v⟩
    rcases h b rest hq with h | h
    · simp_all
    · exact h v
  · rfl

end Sys2Proof.Machine
end

