-- ==== Sys2Proof/Laws/Records.lean ====
section
/-!
SUPPORT. Little-endian fields read back: the bytes of a field as a list, and the bytes put together again (R196); and
the flag bits of a record; and where a field stands in a structure made of parts.
-/

namespace Sys2Proof

/-! ### The bytes of a field -/

theorem leBytes_two (v : Half) : leBytes 2 v = [v.extractLsb' 0 8, v.extractLsb' 8 8] := rfl

theorem leBytes_four (v : Word) :
    leBytes 4 v = [v.extractLsb' 0 8, v.extractLsb' 8 8, v.extractLsb' 16 8, v.extractLsb' 24 8] := rfl

theorem leBytes_eight (v : BitVec 64) :
    leBytes 8 v = [v.extractLsb' 0 8, v.extractLsb' 8 8, v.extractLsb' 16 8, v.extractLsb' 24 8,
      v.extractLsb' 32 8, v.extractLsb' 40 8, v.extractLsb' 48 8, v.extractLsb' 56 8] := rfl

@[simp] theorem leBytes_length (n : Nat) {w : Nat} (v : BitVec w) : (leBytes n v).length = n := by
  simp [leBytes]

/-! ### The field they make -/

theorem half_join (v : Half) : v.extractLsb' 8 8 ++ v.extractLsb' 0 8 = v := by
  apply BitVec.eq_of_getLsbD_eq
  intro i hi
  simp only [BitVec.getLsbD_append, BitVec.getLsbD_extractLsb']
  interval_cases i <;> simp

theorem word_join (v : Word) :
    (v.extractLsb' 24 8 ++ v.extractLsb' 16 8) ++ (v.extractLsb' 8 8 ++ v.extractLsb' 0 8) = v := by
  apply BitVec.eq_of_getLsbD_eq
  intro i hi
  simp only [BitVec.getLsbD_append, BitVec.getLsbD_extractLsb']
  interval_cases i <;> simp

theorem long_join (v : BitVec 64) :
    ((v.extractLsb' 56 8 ++ v.extractLsb' 48 8) ++ (v.extractLsb' 40 8 ++ v.extractLsb' 32 8)) ++
      ((v.extractLsb' 24 8 ++ v.extractLsb' 16 8) ++ (v.extractLsb' 8 8 ++ v.extractLsb' 0 8)) = v := by
  apply BitVec.eq_of_getLsbD_eq
  intro i hi
  simp only [BitVec.getLsbD_append, BitVec.getLsbD_extractLsb']
  interval_cases i <;> simp

/-! ### Flag bytes -/

theorem flagByte_bit (a : Bool) : (flagByte a).getLsbD 0 = a := by cases a <;> rfl

theorem flagPair_bit_zero (a b : Bool) : (flagByte a ||| flagByte b <<< 1).getLsbD 0 = a := by
  cases a <;> cases b <;> rfl

theorem flagPair_bit_one (a b : Bool) : (flagByte a ||| flagByte b <<< 1).getLsbD 1 = b := by
  cases a <;> cases b <;> rfl

theorem flagByte_reserved (a : Bool) : flagByte a &&& ~~~(0x01#8) = 0 := by cases a <;> decide

theorem flagPair_reserved (a b : Bool) : (flagByte a ||| flagByte b <<< 1) &&& ~~~(0x03#8) = 0 := by
  cases a <;> cases b <;> decide

/-- A context number read back from its byte. -/
theorem contextNumber_read (c : CtxId) : Fin.ofNat 8 (BitVec.ofNat 8 c.val).toNat = c := by fin_cases c <;> rfl

/-! ### Fields of a structure made of parts -/

open Sys2Proof.Machine

/-- A byte is its own first eight bits. -/
theorem byte_extract (x : Byte) : x.extractLsb' 0 8 = x := by
  apply BitVec.eq_of_getLsbD_eq
  intro i hi
  simp [hi]

theorem fieldAt_append_left {a b : List Byte} {offset length w : Nat} {v : BitVec w} (h : offset + length ≤ a.length)
    (hf : FieldAt a offset length v) : FieldAt (a ++ b) offset length v := fun i hi => by
  rw [List.getElem?_append_left (by omega)]
  exact hf i hi

theorem fieldAt_append_right {a b : List Byte} {offset length w : Nat} {v : BitVec w} (h : a.length ≤ offset)
    (hf : FieldAt b (offset - a.length) length v) : FieldAt (a ++ b) offset length v := fun i hi => by
  rw [List.getElem?_append_right (by omega), ← hf i hi]
  congr 1
  omega

theorem fieldAt_leBytes {w : Nat} (n : Nat) (v : BitVec w) : FieldAt (leBytes n v) 0 n v := fun i hi => by
  simp [leBytes, hi]

theorem fieldAt_zeros {n offset length w : Nat} (h : offset + length ≤ n) :
    FieldAt (List.replicate n (0 : Byte)) offset length (0 : BitVec w) := fun i hi => by
  rw [List.getElem?_replicate, if_pos (by omega)]
  congr 1
  apply BitVec.eq_of_getLsbD_eq
  intro j hj
  simp

/-- The length of a table whose rows have one length. -/
theorem length_flatMap_rows {α : Type} {f : α → List Byte} {n : Nat} (h : ∀ x, (f x).length = n) (l : List α) :
    (l.flatMap f).length = n * l.length := by
  induction l with
  | nil => simp
  | cons a l ih => simp [ih, h, Nat.mul_add, Nat.add_comm]

/-- A byte of a table whose rows have one length. -/
theorem getElem_flatMap_rows {α : Type} {f : α → List Byte} {n : Nat} (h : ∀ x, (f x).length = n) :
    ∀ (l : List α) (k : Nat) (hk : k < l.length) (j : Nat), j < n → (l.flatMap f)[n * k + j]? = (f l[k])[j]? := by
  intro l
  induction l with
  | nil => intro k hk; simp at hk
  | cons a l ih =>
    intro k hk j hj
    cases k with
    | zero => simp; rw [List.getElem?_append_left (by rw [h]; omega)]
    | succ k =>
      rw [List.flatMap_cons, List.getElem?_append_right (by rw [h, Nat.mul_add]; omega), h]
      have : n * (k + 1) + j - n = n * k + j := by rw [Nat.mul_add]; omega
      rw [this]
      exact ih k (by simpa using hk) j hj

/-- A field of a row of such a table. -/
theorem fieldAt_flatMap_rows {α : Type} {w : Nat} {f : α → List Byte} {n : Nat} (h : ∀ x, (f x).length = n) {l : List α}
    {k : Nat} (hk : k < l.length) {offset length : Nat} {v : BitVec w} (ho : offset + length ≤ n)
    (hf : FieldAt (f l[k]) offset length v) : FieldAt (l.flatMap f) (n * k + offset) length v := fun i hi => by
  rw [Nat.add_assoc, getElem_flatMap_rows h l k hk (offset + i) (by omega)]
  exact hf i hi

end Sys2Proof
end

