-- ==== Sys2Proof/Tests/Slice0.lean ====
section
/-!
SUPPORT. The model's own tests. Expected values are taken from spec/: the worked examples of file 11, the examples inside
the section files, and the tables of file 10, as each test's docstring says. The `witness_` theorems show states and
operands that meet the hypotheses of the statements in Certificates/Slice0/Obligations.lean.
-/

namespace Sys2Proof.Tests

open Sys2Proof Sys2Proof.Machine

/-! ### Helpers -/

/-- The state after an outcome. -/
def after (o : Host.Outcome State Fault Refusal) : State :=
  match o with
  | .next s => s
  | .fault _ => State.reset
  | .refused _ => State.reset

/-- ONLINE with the registers of file 11, section 11.5: admin ring of 16, work ring 1 of 8 with weight 2, completion
ring of 64, and the host's messages enabled. -/
def online : State := { State.reset with
  timeBase := 1000
  link := { HostLink.reset with
    device := .online
    regs := { Registers.reset with
      intEnable := true, intCount := 2, intTime := 50
      adminBase := 0x10000000, adminSize := 16, cplBase := 0x10001000, cplSize := 64, dmaLimit := 0x100000000 }
    endpoint := ⟨true, true, 0xFEE00000⟩ }
  intake := { Intake.reset with
    rings := #v[⟨.active, 0x10000000, 16, 0, 0, 0⟩, ⟨.active, 0x10002000, 8, 2, 0, 0⟩, Ring.absent, Ring.absent,
      Ring.absent] }
  cpl := { CompletionWriter.reset with base := 0x10001000, size := 64 } }

/-- The pending entry of a command: number 7, tag 0xA5, submission head 1. -/
def entryOf (r : RingId) (cmd : Command) : PendingEntry := ⟨7, r, true, 0xA5, cmd.opcode.code, cmd.contextField, 1⟩

/-- A command dispatched from a ring, with its pending entry. -/
def given (s : State) (r : RingId) (cmd : Command) : State :=
  { s with intake := { s.intake with
    table := entryOf r cmd :: s.intake.table, dispatched := ⟨7, r, cmd⟩ :: s.intake.dispatched, nextAge := 8 } }

/-- Such a command is taken by its owner. -/
theorem taken (s : State) (r : RingId) (cmd : Command) (h : s.link.device = .online) :
    Taken (given s r cmd) r cmd (entryOf r cmd) := by
  refine ⟨h, ?_, ?_⟩ <;> simp [given, State.dispatchedFrom, State.entry?, entryOf]

/-- Status and value words of the newest completion. -/
def newest (s : State) : Option (CplStatus × Word × Word × Word) :=
  s.cpl.backlog.getLast?.map fun m => (m.status, m.w0, m.w1, m.w2)

/-- The definition of context 0 in file 11, section 11.5. -/
def scanDefinition : Definition where
  priority := 2
  mode := .scan
  source := .internal 10000
  start := .immediate
  timeout := 0
  stop := .none
  count := 0
  depth := 0
  bufferPolicy := .discard
  slipPolicy := .count
  format := .framed
  flush := 0
  clearCounters := false

/-- Its record: READY, two steps of four positions, two units of staging. -/
def readyCtx : Ctx := { Ctx.reset with
  state := .ready
  defn := some scanDefinition
  slots := 2
  steps := [⟨0, 15, 0, 4⟩, ⟨1, 15, 0, 4⟩]
  cap := { Capture.reset with quota := 2 } }

/-- A buffer of 256 bytes with a tag. -/
def buffer (tag : Word) : Buffer := ⟨0x10010000, 256, tag, 1, 0, 0, 0, false, false, none⟩

/-- A pending entry of any number, as one that waits. -/
def held (age : Nat) (r : RingId) : PendingEntry := ⟨age, r, true, 0xC0, 0x22, 0, 3⟩

/-- A state with one context's record replaced. -/
def withCtx (s : State) (c : CtxId) (x : Ctx) : State := s.setCtx c x

/-- Every reading where the event's own order has it. -/
def asWritten : ReadOrder := ⟨[], .between, []⟩

/-- A frame in a condition. -/
def frame (scan : Nat) (cond : FrameCondition) : Frame :=
  ⟨some (word scan), 1000, 0, false, false, cond, List.replicate 8 0⟩

/-! ### Operands that no command can have (WellFormed) -/

theorem test_offset_in_window : (Instr.registerWrite 127 32 0).wellFormed = true := by decide
theorem test_offset_past_window_refused : (Instr.registerWrite 128 32 0).wellFormed = false := by decide
theorem test_access_of_no_bits_refused : (Instr.registerWrite 0x10 0 0).wellFormed = false := by decide
theorem test_access_of_part_byte_refused : (Instr.registerWrite 0x10 12 0).wellFormed = false := by decide
theorem test_short_record_refused : (Instr.fetchReturn (List.replicate 63 0)).wellFormed = false := by decide
theorem test_empty_step_list_refused : (Instr.sequenceReadReturn 0 []).wellFormed = false := by decide
theorem test_ragged_step_list_refused :
    (Instr.sequenceReadReturn 0 (List.replicate 12 0)).wellFormed = false := by decide
theorem test_long_step_list_refused :
    isStepListLength 520 = false := by decide
theorem test_fifteen_settings_refused : (Instr.setLines 0 (List.replicate 15 0)).wellFormed = false := by decide
theorem test_edge_order_refused :
    (Instr.lineEdge 0 true [.counter 0, .counter 1, .context 0] asWritten).wellFormed = false := by decide
theorem test_edge_order_taken :
    (Instr.lineEdge 0 true EdgeTaker.all.reverse asWritten).wellFormed = true := by decide
theorem test_slot_order_refused :
    (Instr.slotEnd 0 ⟨List.replicate 8 3, asWritten⟩).wellFormed = false := by decide
theorem test_slot_order_taken : (Instr.slotEnd 0 ⟨[7, 6, 5, 4, 3, 2, 1, 0], asWritten⟩).wellFormed = true := by decide
theorem test_seventeen_moments_refused :
    (Instr.internalTick ⟨0, ⟨List.replicate 17 .after, .after, []⟩⟩).wellFormed = false := by decide

/-! ### Records written out from the tables of R197 and R200 -/

/-- A record: its first bytes, then zeros up to 64. -/
def record (bytes : List Byte) : List Byte := bytes ++ List.replicate (64 - bytes.length) 0

theorem test_record_create_ring :
    commonCheck 0 0x100000000 (record [0x01, 0, 0, 0, 0x78, 0x56, 0x34, 0x12, 1, 2, 0, 0, 8, 0, 0, 0,
      0x00, 0x20, 0x00, 0x10, 0, 0, 0, 0]) = .inr (.createRing 1 2 8 0x10002000) := by decide

theorem test_record_set_channel :
    commonCheck 0 0 (record [0x10, 0, 0, 0, 0, 0, 0, 0, 5, 0, 3, 1, 3, 0, 0, 0, 0x20, 0x4E, 0xC8, 0xAF]) =
      .inr (.setChannel ⟨5, 0, 3, 1, true, true, 20000, 45000⟩) := by decide

theorem test_record_define_context :
    commonCheck 1 0 (record [0x20, 6, 0, 0, 0, 0, 0, 0, 2, 1, 0, 0, 0, 2, 5, 1, 1, 9, 2, 4, 1, 1, 1, 2,
      0x10, 0x27, 0, 0, 6, 0, 0, 0, 0xE8, 0x03, 0x64, 0, 1]) =
      .inr (.defineContext 6 ⟨2, 1, 0, 0, 0, 2, 5, 1, 1, 9, 2, 4, 1, 1, 1, 2, 10000, 6, 1000, 100, true⟩) := by decide

theorem test_record_post_buffer :
    commonCheck 2 0x100000000 (record [0x38, 3, 0, 0, 1, 0, 0, 0, 0, 1, 0, 0, 0x90, 1, 0, 0,
      0x00, 0x00, 0x01, 0x10, 0, 0, 0, 0]) = .inr (.postBuffer 3 256 400 0x10010000) := by decide

theorem test_record_set_output :
    commonCheck 4 0 (record [0x42, 2, 0, 0, 0, 0, 0, 0, 1, 2, 0x00, 0x40]) =
      .inr (.setOutput 2 1 2 16384) := by decide

/-- Opcode 0 is BAD_OPCODE, an admin command on a work ring WRONG_RING, context 8 BAD_CONTEXT, a reserved bit BAD_PARAM,
and a ring whose last byte is the limit BAD_ADDRESS (R12, R13, R197). -/
theorem test_record_refusals :
    commonCheck 0 0 (record []) = .inl .badOpcode ∧
    commonCheck 1 0 (record [0x04]) = .inl .wrongRing ∧
    commonCheck 1 0 (record [0x22, 8]) = .inl .badContext ∧
    commonCheck 0 0 (record [0x30, 0, 0, 0, 0, 0, 0, 0, 3]) = .inl .badParam ∧
    commonCheck 0 0x100020FF (record [0x01, 0, 0, 0, 0, 0, 0, 0, 1, 1, 0, 0, 4, 0, 0, 0, 0x00, 0x20, 0x00, 0x10]) =
      .inl .badAddress := by decide

/-- A length of 0 is tested as written (R13): with the limit at 0x10002040 a ring of size 0 and a step list of no steps at
0x10002080 fail with BAD_ADDRESS, and at 0x10002000 they pass to their owners. -/
theorem test_no_bytes_tested_as_written :
    commonCheck 0 0x10002040 (record [0x01, 0, 0, 0, 0, 0, 0, 0, 1, 2, 0, 0, 0, 0, 0, 0, 0x80, 0x20, 0x00, 0x10]) =
      .inl .badAddress ∧
    commonCheck 0 0x10002040 (record [0x01, 0, 0, 0, 0, 0, 0, 0, 1, 2, 0, 0, 0, 0, 0, 0, 0x00, 0x20, 0x00, 0x10]) =
      .inr (.createRing 1 2 0 0x10002000) ∧
    commonCheck 1 0x10002040 (record [0x18, 0, 0, 0, 0, 0, 0, 0, 0, 0, 0, 0, 0, 0, 0, 0, 0x80, 0x20, 0x00, 0x10]) =
      .inl .badAddress ∧
    commonCheck 1 0x10002040 (record [0x18, 0, 0, 0, 0, 0, 0, 0, 0, 0, 0, 0, 0, 0, 0, 0, 0x00, 0x20, 0x00, 0x10]) =
      .inr (.loadSequence 0 0 0x10002000) := by decide

/-- The six-step sequence of file 03, section 3.1, as its step list holds it: S is 19, and the frames are 38 and 56 bytes. -/
theorem test_step_list_example :
    let d : List Byte := [0, 15, 0, 4, 0, 0, 0, 0, 5, 6, 1, 2, 0, 0, 0, 0, 32, 15, 0, 1, 0, 0, 0, 0,
      33, 15, 0, 1, 0, 0, 0, 0, 12, 2, 0, 8, 0, 0, 0, 0, 20, 15, 2, 3, 0, 0, 0, 0]
    let steps := (rawStepsOf 6 d).map RawStep.kept
    scanPositions steps = 19 ∧ frameBytes .packed 19 = 38 ∧ frameBytes .framed 19 = 56 ∧
      scanCounts steps = 540 ∧ longestSlot steps = 60 := by decide

/-- The FRAMED frame of file 10, section 10.5: header of scan 41, 56 bytes. -/
theorem test_frame_example :
    let f : Frame := ⟨some 41, 5000000, 9, false, true, .writing, List.replicate 19 0x1234⟩
    (f.bytes .framed 56).take 18 = [41, 0, 0, 0, 0x40, 0x4B, 0x4C, 0, 0, 0, 9, 0, 2, 0, 0, 0, 0x34, 0x12] ∧
      (f.bytes .framed 56).length = 56 := by decide

/-- The ARM word 2 and the BUFFER word 2 of file 10, section 10.3. -/
theorem test_packed_words :
    armWord2 { Run.reset with discarded := 2, historyDelivered := 2, slips := 300 } = 4278321154 ∧
      bufferWord2 7 true = 2147483655 := by decide

/-- Ring 1 of the example stands at offset 24 of the snapshot (R202). -/
theorem test_report_layout :
    (online.reportBytes.drop 24).take 8 = [1, 2, 8, 0, 0, 0, 0, 0] := by decide

/-! ### Correction and calibration (file 06) -/

theorem test_correction_example :
    let e : CorrEntry := ⟨37, 65687⟩
    e.correct 40000 = 40055 ∧ e.correct 65530 = 65535 ∧ e.correct 20 = 0 := by decide

theorem test_calibration_example :
    derivedEntry 10 4120 61410 = ⟨28, 65598⟩ ∧ calibrationFault 10 4120 61410 = none ∧
      CorrEntry.correct ⟨28, 65598⟩ 4120 = 4096 := by decide

/-! ### Worked example 1 of file 11: bring-up and the first buffer -/

/-- The registers written, the admin and completion rings are below the limit: ONLINE. -/
theorem test_enable_goes_online :
    let s := { State.reset with link := { HostLink.reset with regs := { Registers.reset with
      dmaLimit := 0x100000000, adminBase := 0x10000000, adminSize := 16, cplBase := 0x10001000, cplSize := 64 } } }
    (after (exec (.enable false) s)).link.device = .online ∧
      (after (exec (.enable false) s)).ring 0 = ⟨.active, 0x10000000, 16, 0, 0, 0⟩ := by decide

theorem test_create_ring :
    let s := given online 0 (.createRing 2 2 8 0x10003000)
    let t := after (exec (.createRing 2 2 8 0x10003000) s)
    newest t = some (.command .ok, 0, 0, 0) ∧ t.ring 2 = ⟨.active, 0x10003000, 8, 2, 0, 0⟩ ∧ t.intake.table = [] := by
  decide

/-- The fields of context 0's DEFINE_CONTEXT. -/
def exampleParams : DefineParams :=
  ⟨2, 1, 0, 0, 0, 0, 0, 0, 0, 0, 0, 0, 1, 0, 1, 2, 10000, 0, 0, 0, false⟩

theorem test_define_context :
    let t := after (exec (.defineContext 1 0 exampleParams) (given online 1 (.defineContext 0 exampleParams)))
    newest t = some (.command .ok, 62, 0, 0) ∧ (t.ctx 0).state = .defined ∧ (t.ctx 0).defn = some scanDefinition := by
  decide

/-- Context 0 DEFINED with two units. -/
def defined : State := withCtx online 0 { Ctx.reset with
  state := .defined, defn := some scanDefinition, cap := { Capture.reset with quota := 2 } }

theorem test_load_sequence :
    let t := after (exec (.loadSequence 1 0 2 0x10004000) (given defined 1 (.loadSequence 0 2 0x10004000)))
    (t.ctx 0).state = .loading ∧ t.slotsFree = 254 ∧ t.intake.table.length = 1 ∧
      t.link.bus.class2 = [⟨.steps 0 7, 0x10004000, 16⟩] := by decide

/-- The load in flight, its read outstanding. -/
def loading : State :=
  let s := given online 1 (.loadSequence 0 2 0x10004000)
  { withCtx s 0 { Ctx.reset with
      state := .loading, defn := some scanDefinition, slots := 2, load := some 7
      cap := { Capture.reset with quota := 2 } } with
    link := { s.link with bus := { s.link.bus with outstanding := [⟨⟨.steps 0 7, 0x10004000, 16⟩, 900⟩] } } }

/-- The step list of context 0. -/
def exampleSteps : List Byte := [0, 15, 0, 4, 0, 0, 0, 0, 1, 15, 0, 4, 0, 0, 0, 0]

theorem test_load_ends_ok :
    let t := after (exec (.sequenceReadReturn 0 exampleSteps) loading)
    newest t = some (.command .ok, 8, 16, 32) ∧ (t.ctx 0).state = .ready ∧ (t.ctx 0).frameCapacity = 32 := by decide

/-- File 03, section 3.3: a read with no completion within 50 ms ends the load FETCH_ERROR, words 0, 2, 0. -/
theorem test_load_times_out :
    let t := after (exec (.readTimeout 0) loading)
    newest t = some (.command .fetchError, 0, 2, 0) ∧ (t.ctx 0).state = .defined ∧ t.slotsFree = 256 ∧
      t.timeBase = 500900 := by decide

/-- Context 0 READY. -/
def ready : State := withCtx online 0 readyCtx

theorem test_post_third_buffer :
    let s := withCtx ready 0 { readyCtx with cap := { readyCtx.cap with queue := [buffer 100, buffer 101] } }
    newest (after (exec (.postBuffer 1 0 256 102 0x10010200) (given s 1 (.postBuffer 0 256 102 0x10010200)))) =
      some (.command .ok, 3, 8, 0) := by decide

theorem test_arm_immediate_runs :
    let t := after (exec (.arm 1 0) (given ready 1 (.arm 0)))
    (t.ctx 0).state = .running ∧ (t.ctx 0).pacing.origin = 1000 ∧ (t.ctx 0).run.armEntry = some 7 ∧
      t.cpl.backlog = [] ∧ t.intake.table.length = 1 := by decide

/-- Context 0 RUNNING since time 1000, with a store and a queue. -/
def running (store : List Frame) (queue : List Buffer) : State :=
  withCtx online 0 { readyCtx with
    state := .running
    run := { Run.reset with armEntry := some 7, numbered := 1, nextScan := 1 }
    pacing := { Pacing.reset with phase := .run, origin := 1000 }
    cap := { readyCtx.cap with store := store, queue := queue } }

/-- The first tick falls at the origin: scan 0 begins, is reserved and granted, 160 counts to the end. -/
theorem test_first_tick :
    let s := withCtx online 0 { readyCtx with
      state := .running, pacing := { Pacing.reset with phase := .run, origin := 1000 } }
    let t := after (exec (.internalTick ⟨0, asWritten⟩) s)
    (t.ctx 0).run.numbered = 1 ∧ (t.ctx 0).pacing.tick = .granted ∧ (t.ctx 0).pacing.ticks = 1 ∧
      t.conv.holder = .context ⟨0, ⟨0, 1000, 1020, .analog 0 .single 0 .bipolar⟩, 7, 1160⟩ := by decide

/-- The last slot of the scan: the frame is complete. -/
theorem test_last_slot_completes :
    let x := (running [frame 0 .filling] []).ctx 0
    let s := { withCtx online 0 { x with pacing := { x.pacing with tick := .granted } } with
      conv := { Conversion.reset with
        holder := .context ⟨0, ⟨7, 1140, 1160, .analog 1 .single 0 .bipolar⟩, 7, 1160⟩ } }
    let t := after (exec (.slotEnd 0x1234 ⟨[], asWritten⟩) s)
    t.timeBase = 1160 ∧ t.conv.holder = .none ∧ (t.ctx 0).pacing.tick = .free ∧
      (t.ctx 0).cap.store = [⟨some 0, 1000, 0, false, false, .complete, [0, 0, 0, 0, 0, 0, 0, 0x1234]⟩] := by decide

/-- B0 has 0 bytes free when scan 8 arrives: it retires FILLED with words 256, 0, 8. -/
theorem test_full_buffer_retires :
    let full : Buffer := ⟨0x10010000, 256, 100, 1, 256, 8, 0, false, true, none⟩
    let t := after (exec (.frameWriteBegin 0 false) (running [frame 8 .complete] [full, buffer 101]))
    newest t = some (.buffer .filled, 256, 0, 8) ∧ (t.ctx 0).cap.queue = [buffer 101] := by decide

/-- Scan 8 then opens B1: its write is asked for at the buffer's address. -/
theorem test_frame_opens_buffer :
    let t := after (exec (.frameWriteBegin 0 false) (running [frame 8 .complete] [buffer 101]))
    (t.ctx 0).cap.writing = true ∧ (t.ctx 0).cap.queue.map (fun b => (b.opened, b.firstScan)) = [(true, 8)] ∧
      (t.link.bus.class3[0]).map (fun w => (w.address, w.bytes.length)) = some (0x10010000, 32) := by decide

/-- A frame write begun, and on the link. -/
def writing (staging : Bool) : State :=
  let s := running [frame 0 .writing] [{ buffer 100 with opened := true }]
  { withCtx s 0 { s.ctx 0 with cap := { (s.ctx 0).cap with writing := true } } with
    link := { s.link with bus := { s.link.bus with onLink := some (.frame 0 ⟨0x10010000, []⟩), busy := !staging } } }

/-- Scan 0 written into B0: 32 bytes used, delivered 1. -/
theorem test_frame_written :
    let t := after (exec .frameWriteEnd (writing false))
    (t.ctx 0).run.delivered = 1 ∧ (t.ctx 0).cap.store = [] ∧ t.link.bus.busy = false ∧
      (t.ctx 0).cap.queue.map (fun b => (b.used, b.frames)) = [(32, 1)] := by decide

/-! ### Worked example 2: limit-triggered capture with history -/

/-- The crossing of channel 5 at 30,980: LIMIT ABOVE, words 5, 41200, INSIDE, and the report disarmed. -/
theorem test_limit_report :
    let s := online.setChan 5 ⟨.single, 0, .bipolar, true, 10000, 40000, true, .inside, true⟩
    let l := s.limitCheck 5 41200 0 30980
    l.2 = some ⟨5, .above, .inside, 41200, 0, 30980⟩ ∧
      newest (l.1.reportLimit ⟨5, .above, .inside, 41200, 0, 30980⟩) = some (.limit .above, 5, 41200, 1) ∧
      ((l.1.reportLimit ⟨5, .above, .inside, 41200, 0, 30980⟩).chan 5).armed = false := by decide

/-- The trigger taken with four frames held: they become scans 0 to 3, and the run begins with numbered 4. -/
theorem test_history_numbered :
    let h : Frame := ⟨none, 0, 0, true, false, .complete, []⟩
    let s := withCtx online 1 { readyCtx with
      state := .armed
      defn := some { scanDefinition with start := .limit 5 .above, depth := 4 }
      pacing := { Pacing.reset with phase := .history, watcher := .start }
      cap := { readyCtx.cap with store := [h, h, h, h] } }
    let t := s.limitTrigger ⟨5, .above, .inside, 41200, 0, 30980⟩ 1
    (t.ctx 1).state = .running ∧ (t.ctx 1).run.numbered = 4 ∧ (t.ctx 1).run.nextScan = 4 ∧
      (t.ctx 1).cap.store.map (·.scan) = [some 0, some 1, some 2, some 3] := by decide

/-- One backlog entry is free when an event is raised that is reportable and starts a run with an update deferred to its
start: the LIMIT takes the entry and disarms the channel, the run starts, and the SET_OUTPUT waits (R39, R40, R20). -/
theorem test_limit_judged_when_raised :
    let s0 := withCtx online 1 { readyCtx with
      state := .armed
      defn := some { scanDefinition with start := .limit 5 .above }
      pacing := { Pacing.reset with watcher := .start } }
    let s := { s0.setChan 5 ⟨.single, 0, .bipolar, true, 10000, 40000, true, .above, true⟩ with
      intake := { online.intake with table := [held 4 1] }
      outs := #v[⟨0, some ⟨9, .runStart, 1, 4⟩⟩, ⟨0, none⟩]
      cpl := { online.cpl with backlog := List.replicate 31 (completionOf (held 9 1) (answer .ok 0 0 0) 0) } }
    let t := s.takeLimit ⟨5, .above, .inside, 41200, 0, 30980⟩ [1]
    newest t = some (.limit .above, 5, 41200, 1) ∧ (t.chan 5).armed = false ∧ (t.ctx 1).state = .running ∧
      (t.out 0).code = 9 ∧ t.cpl.backlog.length = 32 ∧ t.cpl.claimants.length = 1 := by decide

/-! ### Worked example 3: starvation -/

/-- Frame 12 follows frame 7: its GAP is set when its write begins. -/
theorem test_gap_follows_drop :
    let s := running [frame 12 .complete] [buffer 300]
    let x := s.ctx 0
    ((after (exec (.frameWriteBegin 0 false)
      (withCtx s 0 { x with cap := { x.cap with lastWritten := some 7 } }))).ctx 0).cap.queue.map (·.gap) = [true] := by
  decide

/-- A tick with four frames held ends the HALT run OVERRUN with no buffer queued: the frames are dropped, the ARM is
answered OVERRUN with delivered 4 and dropped 4, and the context is HALTED. -/
theorem test_overrun_halts :
    let s := given online 1 (.arm 0)
    let t := withCtx s 0 { readyCtx with
      state := .running
      defn := some { scanDefinition with bufferPolicy := .halt, format := .packed }
      steps := [⟨0, 15, 0, 16⟩, ⟨1, 15, 0, 16⟩, ⟨2, 15, 0, 16⟩, ⟨3, 15, 0, 16⟩]
      run := { Run.reset with armEntry := some 7, numbered := 8, delivered := 4, nextScan := 8 }
      pacing := { Pacing.reset with phase := .run, origin := 1000 }
      cap := { Capture.reset with
        quota := 1, store := [frame 4 .complete, frame 5 .complete, frame 6 .complete, frame 7 .complete] } }
    let r := after (exec (.internalTick ⟨0, asWritten⟩) t)
    newest r = some (.run .overrun, 4, 4, 0) ∧ (r.ctx 0).state = .halted ∧ (r.ctx 0).run.numbered = 8 := by decide

/-! ### Worked example 4: ABORT during STOPPING -/

/-- Context 3 in STOPPING with its scan granted, two STOPs kept, and output 1 waiting for the run end. -/
def stopping : State :=
  let s := given online 2 (.abort 3)
  let e1 : Buffer := ⟨0x10010100, 256, 401, 2, 128, 2, 4, false, true, none⟩
  let e2 : Buffer := ⟨0x10010200, 256, 402, 2, 0, 0, 0, false, false, none⟩
  { withCtx s 3 { readyCtx with
      state := .stopping
      run := { Run.reset with
        numbered := 7, delivered := 6, nextScan := 7, endReason := some .stopped, armEntry := some 1, stops := [2, 3] }
      pacing := { Pacing.reset with tick := .granted }
      cap := { readyCtx.cap with store := [frame 6 .filling], queue := [e1, e2] } } with
    intake := { s.intake with table := s.intake.table ++ [held 1 2, held 2 2, held 3 4, held 4 3] }
    conv := { Conversion.reset with holder := .context ⟨3, ⟨2, 0, 0, .digital 0⟩, 23, 0⟩ }
    outs := #v[Output.reset, ⟨49152, some ⟨32768, .runEnd, 3, 4⟩⟩] }

/-- The seven records, in the order of the example. -/
theorem test_abort_order :
    (after (exec (.abort 2 ⟨3, asWritten⟩) stopping)).cpl.backlog.map (fun m => (m.status, m.w0, m.w1, m.w2)) =
      [(.buffer .aborted, 128, 4, 2), (.buffer .unused, 0, 0, 0), (.run .aborted, 6, 0, 1),
       (.command .overtaken, 67, 0, 0), (.command .overtaken, 67, 0, 0), (.command .ok, 0, 0, 0),
       (.command .ok, 1, 32768, 49152)] := by decide

theorem test_abort_state :
    let t := after (exec (.abort 2 ⟨3, asWritten⟩) stopping)
    (t.ctx 3).state = .ready ∧ t.outs = #v[Output.reset, ⟨32768, none⟩] ∧ t.conv.holder = .none ∧ t.intake.table = [] := by
  decide

/-! ### One step of the other commands -/

/-- File 01, section 1.3: with the admin ring empty, ring 1's turn of two goes on, and its entry 1 is fetched. -/
theorem test_fetch_serves_turn :
    let s := { online with intake := { online.intake with
      rings := #v[⟨.active, 0x10000000, 16, 0, 1, 1⟩, ⟨.active, 0x10002000, 8, 2, 1, 5⟩, Ring.absent,
        ⟨.active, 0x10005000, 4, 1, 0, 2⟩, Ring.absent], current := some 1, taken := 1 } }
    let t := after (exec .fetchBegin s)
    t.intake.fetch = some ⟨1, 0⟩ ∧ t.intake.taken = 2 ∧ t.link.bus.class2 = [⟨.fetch, 0x10002040, 64⟩] := by decide

/-- The turn of two is over: the search from ring 2 finds ring 3. -/
theorem test_fetch_turn_ends :
    let s := { online with intake := { online.intake with
      rings := #v[⟨.active, 0x10000000, 16, 0, 1, 1⟩, ⟨.active, 0x10002000, 8, 2, 2, 5⟩, Ring.absent,
        ⟨.active, 0x10005000, 4, 1, 0, 2⟩, Ring.absent], current := some 1, taken := 2 } }
    (after (exec .fetchBegin s)).intake.current = some 3 := by decide

/-- A fetch in flight from ring 1, its read outstanding. -/
def fetching : State := { online with
  intake := { online.intake with
    rings := #v[⟨.active, 0x10000000, 16, 0, 0, 0⟩, ⟨.active, 0x10002000, 8, 2, 7, 1⟩, Ring.absent, Ring.absent,
      Ring.absent]
    fetch := some ⟨1, 5⟩, table := [⟨5, 1, false, 0, 0, 0, 0⟩], nextAge := 6 }
  link := { online.link with bus := { online.link.bus with outstanding := [⟨⟨.fetch, 0x100021C0, 64⟩, 900⟩] } } }

/-- The head wraps from 7 to 0, and the record's tag and bytes 0 and 1 fill the entry (R8). -/
theorem test_fetch_return_fills :
    let t := after (exec (.fetchReturn (record [0x23, 3, 0, 0, 0x78, 0x56, 0x34, 0x12])) fetching)
    (t.ring 1).head = 0 ∧ t.intake.table = [⟨5, 1, true, 0x12345678, 0x23, 3, 0⟩] ∧
      t.intake.dispatched = [⟨5, 1, .abort 3⟩] := by decide

theorem test_fetch_error_halts :
    let t := after (exec (.readErrorCompletion 0) fetching)
    (t.ring 1).state = .halted ∧ newest t = some (.notice .fetchError, 7, 1, 0) ∧ t.intake.table = [] := by decide

/-- A tail of the ring's size is an INDEX_ERROR (R3, R22). -/
theorem test_index_error :
    let t := after (exec (.submitTail 1 8) online)
    (t.ring 1).state = .halted ∧ newest t = some (.notice .indexError, 8, 8, 0) := by decide

theorem test_submit_tail : ((after (exec (.submitTail 1 7) online)).ring 1).tail = 7 := by decide

theorem test_delete_ring :
    let t := after (exec (.deleteRing 1) (given online 0 (.deleteRing 1)))
    t.ring 1 = Ring.absent ∧ newest t = some (.command .ok, 0, 0, 0) := by decide

theorem test_barrier_waits :
    let s := given online 1 .barrier
    let t := after (exec (.barrier 1) { s with intake := { s.intake with table := s.intake.table ++ [held 2 1] } })
    t.intake.barriers = [7] ∧ t.cpl.backlog = [] := by decide

theorem test_report_queued :
    (after (exec (.report 0x10009000) (given online 0 (.report 0x10009000)))).link.bus.class4.map
      (fun w => (w.entry, w.address, w.takenAt)) = [(7, 0x10009000, 1000)] := by decide

theorem test_report_done :
    let s := given online 0 (.report 0x10009000)
    let t := after (exec .reportWriteDone { s with link := { s.link with bus := { s.link.bus with
      onLink := some (.report ⟨7, 0x10009000, [], 600⟩), busy := true } } })
    newest t = some (.command .ok, 0, 0, 0) ∧ t.cpl.backlog.map (·.stamp) = [600] := by decide

/-- File 02, section 2.5: the window on channel 5, and channel 0's pairing resets its partner 16 (R35). -/
theorem test_set_channel :
    let s := online.setChan 16 { Channel.reset with limit := .above, armed := false }
    let p : ChannelParams := ⟨0, 1, 0, 0, true, true, 20000, 45000⟩
    let t := after (exec (.setChannel p) (given s 0 (.setChannel p)))
    t.chan 0 = ⟨.diff, 0, .bipolar, true, 20000, 45000, true, .unknown, true⟩ ∧ t.chan 16 = Channel.reset := by decide

/-- The REARM_LIMIT of that example completes with words 0, INSIDE, 0. -/
theorem test_rearm_limit :
    let s := online.setChan 5 ⟨.single, 0, .bipolar, true, 20000, 45000, true, .inside, false⟩
    let t := after (exec (.rearmLimit 5) (given s 0 (.rearmLimit 5)))
    newest t = some (.command .ok, 0, 1, 0) ∧ (t.chan 5).armed = true := by decide

theorem test_stop_ends_idle_run :
    let s := withCtx (given online 1 (.stop 0)) 0 ((running [] []).ctx 0)
    let t := after (exec (.stop 1 0) { s with
      intake := { s.intake with table := [held 7 1, held 9 1], dispatched := [⟨9, 1, .stop 0⟩] } })
    t.cpl.backlog.map (fun m => (m.status, m.w0)) = [(.run .stopped, 0), (.command .ok, 66)] := by decide

theorem test_reset_context :
    let s := withCtx online 0 { readyCtx with
      state := .halted, run := { Run.reset with dropped := 4 }, cap := { readyCtx.cap with queue := [buffer 300] } }
    let t := after (exec (.resetContext 1 0) (given s 1 (.resetContext 0)))
    t.cpl.backlog.map (fun m => (m.status, m.w0)) = [(.buffer .unused, 0), (.command .ok, 1)] ∧
      t.ctx 0 = readyCtx := by decide

theorem test_release_context :
    let t := after (exec (.releaseContext 1 0) (given ready 1 (.releaseContext 0)))
    newest t = some (.command .ok, 0, 2, 2) ∧ t.ctx 0 = Ctx.reset := by decide

theorem test_pulse_not_taken :
    let s := running [] []
    newest (after (exec (.pulse 1 ⟨0, asWritten⟩) (given s 1 (.pulse 0)))) = some (.command .ok, 0, 0, 0) := by decide

theorem test_calibrate :
    let t := after (exec (.calibrate true) (given online 0 (.calibrate true)))
    t.conv.holder = .calibration ∧ t.conv.cal = ⟨.measuring 0, some 7, true, []⟩ ∧ t.cpl.backlog = [] := by decide

/-- The stored calibration of file 06, section 6.6, at its entry 15 and at the end of its store. -/
def calibrating (phase : CalPhase) (holder : Holder) : State :=
  let s := given online 0 (.calibrate true)
  { s with
    intake := { s.intake with dispatched := [] }
    conv := { Conversion.reset with
      holder := holder
      nv := #v[⟨Vector.replicate 16 CorrEntry.nominal, .factory, 1, true⟩, NvCopy.blank]
      cal := ⟨phase, some 7, true, List.replicate 15 CorrEntry.nominal⟩ } }

theorem test_last_entry_stores :
    let t := after (exec (.calEntryMeasured 4096 61440) (calibrating (.measuring 15) .calibration))
    t.conv.cal.phase = .storing 1 ∧ t.conv.holder = .none := by decide

theorem test_store_done :
    let s := calibrating (.storing 1) .none
    let t := after (exec .calStoreDone { s with conv := { s.conv with cal := { s.conv.cal with
      readings := List.replicate 16 CorrEntry.nominal } } })
    newest t = some (.command .ok, 1, 1, 2) ∧ t.conv.source = .calibrated ∧ t.conv.nv[1].generation = 2 ∧
      t.conv.cal.entry = none := by decide

theorem test_set_lines :
    let cfg : List Half := 0x0102 :: List.replicate 15 0
    let t := after (exec (.setLines 1 cfg) (given online 0 (.setLines 1 cfg)))
    newest t = some (.command .ok, 1, 1, 0) ∧ (t.line 0).mode = .output true := by decide

theorem test_set_counter :
    let s := online.setCounter 1 ⟨none, 37⟩
    let t := after (exec (.setCounter 1 3 2) (given s 0 (.setCounter 1 3 2)))
    newest t = some (.command .ok, 37, 255, 0) ∧ t.counter 1 = ⟨some (3, .falling), 0⟩ := by decide

/-- File 08, section 8.5: command 2 supersedes command 1, words 0, 49152, 32768. -/
theorem test_set_output_supersedes :
    let s := withCtx (given ready 1 (.setOutput 2 0 2 32768)) 2 readyCtx
    let u := { s with
      intake := { s.intake with table := s.intake.table ++ [held 3 1] }
      outs := #v[⟨32768, some ⟨49152, .runStart, 2, 3⟩⟩, Output.reset] }
    let t := after (exec (.setOutput 1 2 0 2 32768) u)
    newest t = some (.command .superseded, 0, 49152, 32768) ∧ t.out 0 = ⟨32768, some ⟨32768, .runEnd, 2, 7⟩⟩ := by decide

theorem test_line_edge_counts :
    let s := online.setCounter 0 ⟨some (4, .rising), 9⟩
    let t := after (exec (.lineEdge 4 true [] asWritten) s)
    (t.counter 0).count = 10 ∧ (t.line 4).seen = true := by decide

theorem test_trigger_timeout :
    let s := given online 1 (.arm 0)
    let t := withCtx s 0 { readyCtx with
      state := .armed, run := { Run.reset with armEntry := some 7 }
      pacing := { Pacing.reset with watcher := .start, deadline := some 21000 } }
    let r := after (exec (.triggerTimeout 0) t)
    newest r = some (.run .triggerTimeout, 0, 0, 0) ∧ r.timeBase = 21000 ∧ (r.ctx 0).state = .ready := by decide

theorem test_flush_timer :
    let s := running [] [⟨0x10010000, 256, 100, 1, 64, 2, 5, false, true, none⟩]
    let x := s.ctx 0
    newest (after (exec (.flushTimer 0) (withCtx s 0 { x with cap := { x.cap with flushDeadline := some 9000 } }))) =
      some (.buffer .partial', 64, 5, 2) := by decide

theorem test_event_pulse_end :
    let s := online.setLine 2 ⟨.event 0 .scanStart, false, some 1010⟩
    let t := after (exec (.eventPulseEnd 2) s)
    (s.lineLevel 2, t.lineLevel 2, t.timeBase) = (true, false, 1010) := by decide

/-- A completion in the backlog. -/
def completion : Completion := completionOf (held 3 1) (answer .ok 1 2 3) 500

theorem test_claimant_handed_in :
    let s := { online with
      intake := { online.intake with table := [held 3 1] }
      cpl := { online.cpl with claimants := [.command 3 (answer .ok 1 2 3)] } }
    let t := after (exec .claimantHandedIn s)
    newest t = some (.command .ok, 1, 2, 3) ∧ t.cpl.claimants = [] ∧ t.intake.table = [] := by decide

/-- A record is written at base + 32 × tail with the present phase (R18, R198). -/
theorem test_completion_write_begin :
    let s := { online with cpl := { online.cpl with tail := 2, backlog := [completion] } }
    (after (exec .completionWriteBegin s)).link.bus.class1 =
      [.record 0x10001040 [0xC0, 0, 0, 0, 1, 0, 0, 0, 2, 0, 0, 0, 3, 0, 0, 0, 0xF4, 1, 0, 0, 0, 0, 3, 0, 1, 0, 1, 0,
        0, 0, 0, 1]] := by decide

/-- The tail wraps and the phase inverts; the second of two records reaches the count: a COUNT message (R18, R192). -/
theorem test_completion_write_done :
    let s := { online with
      cpl := { online.cpl with tail := 63, backlog := [completion], writing := true }
      link := { online.link with
        unsignalled := 1, deadline := some 2000
        bus := { online.link.bus with onLink := some (.record 0 []), busy := true } } }
    let t := after (exec (.completionWriteDone false) s)
    (t.cpl.tail, t.cpl.phase, t.link.unsignalled, t.link.regs.intCause, t.link.bus.class1) =
      (0, false, 0, .count, [.message .count]) := by decide

theorem test_deadline_sends_time :
    let t := after (exec .firstUnsignalledDeadline
      { online with link := { online.link with unsignalled := 1, deadline := some 1500 } })
    (t.timeBase, t.link.regs.intCause, t.link.deadline) = (1500, .time, none) := by decide

/-- Class 3 in round robin: with context 0 served last, context 2 comes before context 0 (R188). -/
theorem test_bus_round_robin :
    let s := { online with link := { online.link with bus := { online.link.bus with
      lastServed := 0, class3 := #v[some ⟨1, []⟩, none, some ⟨2, []⟩, none, none, none, none, none] } } }
    (after (exec .busTransferSend s)).link.bus.lastServed = 2 := by decide

theorem test_endpoint_configuration :
    (after (exec (.endpointConfigurationWrite true false 0xFEE00000) State.reset)).link.endpoint =
      ⟨true, false, 0xFEE00000⟩ := by decide

theorem test_cpl_head : (after (exec (.cplHead 63) online)).cpl.head = 63 := by decide

theorem test_int_cause_read :
    let t := after (exec .intCauseRead
      { online with link := { online.link with regs := { online.link.regs with intCause := .time } } })
    (t.hostRead, t.link.regs.intCause) = (2, .none) := by decide

/-- File 09, section 9.5: with one record unsignalled, a count of 1 written sends COUNT at once. -/
theorem test_int_coalesce :
    let t := after (exec (.intCoalesce 0x07D00001) { online with link := { online.link with unsignalled := 1 } })
    (t.link.regs.intCount, t.link.regs.intTime, t.link.regs.intCause) = (1, 2000, .count) := by decide

theorem test_int_enable :
    let s := { online with link := { online.link with
      unsignalled := 2, regs := { online.link.regs with intEnable := false } } }
    (after (exec (.intEnable true) s)).link.regs.intCause = .count := by decide

/-- The high half of ADMIN_BASE is written alone; a 16-bit write of it changes nothing (R180). -/
theorem test_register_write_half :
    (after (exec (.registerWrite 0x14 32 0x12) online)).link.regs.adminBase = 0x1210000000 ∧
      after (exec (.registerWrite 0x14 16 0x12) online) = online := by decide

/-- The 64-bit register reads whole at 0x10, by its halves, and at no other offset or width (R180). -/
theorem test_window_reads :
    let s := after (exec (.registerWrite 0x10 64 0x1210000000) online)
    s.readWindow 0x10 64 = some 0x1210000000 ∧ s.readWindow 0x14 32 = some 0x12 ∧ s.readWindow 0x14 64 = none ∧
      s.readWindow 0x10 16 = none ∧ s.readWindow 0x4C 32 = some 0 := by decide

/-- INT_ENABLE cleared: the COUNT message that waits is not sent any more, the record behind it stays (R193). -/
theorem test_clearing_int_enable_drops_messages :
    let s := { online with link := { online.link with bus := { online.link.bus with
      class1 := [.message .count, .record 0x40 []] } } }
    (after (exec (.intEnable false) s)).link.bus.class1 = [.record 0x40 []] := by decide

/-- A buffer of an ABORT in READY still waits on the return list: the fault limit stays until it has joined (R155). -/
theorem test_fault_limit_waits_for_returned_buffers :
    let b : Buffer := { buffer 9 with due := some .unused }
    let s := withCtx { online with cpl := { online.cpl with claimants := [.context 0] } } 0 { readyCtx with
      state := .stopping, run := { Run.reset with endReason := some .overrun, armEntry := some 1 }
      cap := { readyCtx.cap with queue := [buffer 1], returns := [.buffer b], faultLimit := some 0 } }
    ((s.settleCtx 0).ctx 0).cap.faultLimit = some 0 ∧
      ((after (exec .claimantHandedIn s)).ctx 0).cap.faultLimit = none ∧
      (after (exec .claimantHandedIn s)).cpl.backlog.map (·.status) = [.buffer .unused] := by decide

/-- A SOFT context whose first position reads the lines, with a SCAN_START line 2 and a RUN_ACTIVE line 3. -/
def reading : State :=
  let x : Ctx := { readyCtx with
    state := .running
    defn := some { scanDefinition with source := .soft }
    steps := [⟨32, 15, 0, 1⟩]
    run := { Run.reset with armEntry := some 7 }
    pacing := { Pacing.reset with phase := .run } }
  ((withCtx online 0 x).setLine 2 ⟨.event 0 .scanStart, false, none⟩).setLine 3 ⟨.event 0 .runActive, false, none⟩

set_option maxRecDepth 4000 in
/-- A PULSE begins the scan and pulses SCAN_START: pseudo-input 32, read at the same instant, shows the line before or
after the pulse, and the scan's own snapshot always the line before it (R163). -/
theorem test_pseudo_input_beside_a_pulse :
    let read (m : Moment) : State :=
      (reading.deliverTick 0).1.readBy reading ⟨List.replicate 16 m, m, [List.replicate 16 m]⟩
    let shown (s : State) : Holder × List Half := (s.conv.holder, (s.ctx 0).cap.store.map (·.lines))
    shown (read .before) = (.context ⟨0, ⟨0, 1000, 1020, .digital 8⟩, 0, 1020⟩, [8]) ∧
      shown (read .after) = (.context ⟨0, ⟨0, 1000, 1020, .digital 12⟩, 0, 1020⟩, [8]) := by decide

/-- A counter that a start trigger zeroes at an edge it counts shows 1 or 0, by its place in the order (log 11). -/
theorem test_edge_order_decides_the_count :
    let s := withCtx (online.setCounter 0 ⟨some (4, .rising), 9⟩) 0 { readyCtx with
      state := .armed
      defn := some { scanDefinition with start := .line 4 .rising, clearCounters := true }
      run := { Run.reset with armEntry := some 7 }
      pacing := { Pacing.reset with watcher := .start } }
    let count (order : List EdgeTaker) : Word := ((after (exec (.lineEdge 4 true order asWritten) s)).counter 0).count
    (count [.counter 0, .context 0], count [.context 0, .counter 0]) = (0, 1) := by decide

/-- One edge of line 4 starts the run, which zeroes the counters, and begins its scan, whose first position reads counter A:
the read shows 0, or 1 where the edge is counted between, and never the 9 from before the start (R108, R172). -/
theorem test_count_read_after_its_own_run_start :
    let s := withCtx (online.setCounter 0 ⟨some (4, .rising), 9⟩) 0 { readyCtx with
      state := .armed
      defn := some { scanDefinition with start := .line 4 .rising, source := .line 4 .rising, clearCounters := true }
      steps := [⟨33, 15, 0, 1⟩]
      run := { Run.reset with armEntry := some 7 }
      pacing := { Pacing.reset with watcher := .start } }
    let read (order : List EdgeTaker) (m : Moment) : Holder :=
      (after (exec (.lineEdge 4 true order ⟨[], m, []⟩) s)).conv.holder
    let shows (v : Half) : Holder := .context ⟨0, ⟨0, 1000, 1020, .digital v⟩, 0, 1020⟩
    (read [.counter 0, .context 0] .before = shows 0 ∧ read [.context 0, .counter 0] .before = shows 0) ∧
      read [.context 0, .counter 0] .after = shows 1 := by decide

/-- A fault end with its flush done and its ARM still waiting for the backlog has no fault limit left (R155). -/
theorem test_fault_limit_ends_with_the_flush :
    let s := withCtx { online with cpl := { online.cpl with claimants := [.command 9 (answer .ok 0 0 0)] } } 0 { readyCtx with
      state := .stopping, run := { Run.reset with endReason := some .overrun, armEntry := some 1 }
      cap := { readyCtx.cap with queue := [buffer 1], faultLimit := some 0 } }
    let t := s.settleCtx 0
    (t.ctx 0).cap.faultLimit = none ∧ (t.ctx 0).state = .stopping ∧ t.cpl.claimants.length = 2 := by decide

theorem test_soft_reset :
    let t := after (exec (.softReset false) online)
    (t.link.device, t.timeBase, t.link.regs.intCount, t.link.regs.cplSize, t.link.endpoint.busMaster) =
      (.offline, 0, 2, 64, true) := by decide

theorem test_link_reset :
    let t := after (exec .linkReset online)
    (t.link.device, t.link.regs.intCount, t.link.endpoint.busMaster) = (.offline, 1, false) := by decide

theorem test_link_loss_and_return :
    let t := after (exec .linkLoss online)
    let r := after (exec .linkReturn t)
    (t.link.device, t.link.operating, r.link.operating, r.link.regs.intCause, r.link.bus.class1) =
      (.failed, false, true, .failed, [.message .failed]) := by decide

theorem test_power_on_loads_copy :
    let s := { online with conv := { Conversion.reset with
      nv := #v[⟨Vector.replicate 16 ⟨5, 65000⟩, .factory, 1, true⟩, NvCopy.blank] } }
    let t := after (exec .powerOn s)
    (t.conv.table[3], t.conv.source, t.link.device) = (⟨5, 65000⟩, .factory, .offline) := by decide

/-- The queue is first in, first out; an empty queue counts time. -/
theorem test_step :
    let s := { online with pending := [.cplHead 5, .submitTail 1 3] }
    (after (step s)).pending = [.submitTail 1 3] ∧ (after (step s)).cpl.head = 5 ∧
      (after (step online)).timeBase = 1001 := by decide

/-- No word spells a command (log 6). -/
theorem test_no_word_spells_a_command : online.withFetchWord 32 0x01 = online := rfl


/-! ### Witnesses: what the statements suppose can be met

Each theorem shows states and operands that meet the hypotheses of the statement it names, clause by clause where the
clauses suppose more. -/

theorem witness_StepDoesTheFrontCommandOrCountsTime : online.pending = [] := rfl

/-- A copy of a generation that is valid. -/
def goodCopy (generation : Word) : NvCopy :=
  ⟨Vector.replicate 16 ⟨-2048, 61440⟩, .calibrated, generation, true⟩

theorem witness_PowerOnLoadsTheNewerCopy :
    CopyValid (goodCopy 1) ∧ ¬CopyValid NvCopy.blank ∧
      (goodCopy 3).generation.toNat ≤ (goodCopy 3).generation.toNat ∧
      (goodCopy 3).generation.toNat < (goodCopy 4).generation.toNat := by
  unfold CopyValid
  decide

theorem witness_ResetsKeepTheCorrectionTable : online.link.operating = true ∧ online.link.device ≠ .offline := by decide

/-- FAILED by a loss of the link, not yet back. -/
def lost : State := after (exec .linkLoss online)

theorem witness_LinkEventsAndEndpointConfiguration :
    (online.link.operating = true ∧ online.link.device = .online) ∧
    (State.reset.link.operating = true ∧ State.reset.link.device ≠ .online) ∧
    (lost.link.operating = false ∧ lost.link.device = .failed ∧ lost.link.failedOwed = true ∧
      lost.link.regs.intEnable = true) ∧
    ((after (exec .linkLoss State.reset)).link.operating = false ∧
      (after (exec .linkLoss State.reset)).link.device ≠ .failed) := by decide

/-- FAILED with its link back: a step list read, a fetch read, and a record on the link. -/
theorem witness_NothingActsUnlessOnline :
    let failed := after (exec .linkReturn lost)
    let s (reads : List OutstandingRead) : State := { failed with link := { failed.link with bus := { failed.link.bus with
      outstanding := reads, onLink := some (.record 0x40 []), busy := true } } }
    let steps : OutstandingRead := ⟨⟨.steps 0 7, 0x10004000, 16⟩, 900⟩
    let fetch : OutstandingRead := ⟨⟨.fetch, 0x100021C0, 64⟩, 900⟩
    ((s [steps, fetch]).link.device ≠ .online ∧ (s [steps, fetch]).link.operating = true) ∧
      ((s [steps, fetch]).link.bus.outstanding[0]? = some steps ∧ exampleSteps.length = 16) ∧
      ((s [steps, fetch]).link.bus.outstanding[1]? = some fetch ∧
        (s [steps, fetch]).link.bus.outstanding.findIdx? (fun r => r.request.kind == .fetch) = some 1 ∧
        (record []).length = 64) ∧
      ((s []).link.bus.busy = true ∧ (s []).link.bus.onLink = some (.record 0x40 [])) := by decide

/-- OFFLINE with both rings at the lowest sizes, one behind the other, and a limit. -/
def configured (limit : Addr) : State := { State.reset with link := { HostLink.reset with
  regs := { Registers.reset with adminSize := 4, cplBase := 256, cplSize := 16, dmaLimit := limit } } }

/-- The hypotheses hold OFFLINE; the rings end at byte 0x2FF, so the limit 0x300 passes and 0x2FF fails check 6. -/
theorem witness_EnableMakesTheChecksInOrder :
    ((configured 0x300).link.operating = true ∧ (configured 0x300).link.device = .offline ∧
      1 ≤ (configured 0x300).link.regs.intCount.toNat) ∧
    (after (exec (.enable true) (configured 0x300))).link.device = .online ∧
    (after (exec (.enable true) (configured 0x2FF))).link.regs.check = 6 ∧
    (after (exec (.enable true) State.reset)).link.regs.check = 1 := by decide

/-- INT_ENABLE 0 with a count and a deadline. -/
def quiet (count : Nat) (deadline : Option Time) : State := { online with link := { online.link with
  regs := { online.link.regs with intEnable := false }, unsignalled := count, deadline := deadline } }

theorem witness_IntEnableMakesTheTests :
    ((quiet 2 none).link.regs.intEnable = false ∧ (quiet 2 none).link.device = .online ∧
      (quiet 2 none).link.regs.intCount.toNat ≤ (quiet 2 none).link.unsignalled) ∧
    (¬(quiet 1 (some 1000)).link.regs.intCount.toNat ≤ (quiet 1 (some 1000)).link.unsignalled ∧
      (1000 : Time).toNat ≤ (quiet 1 (some 1000)).timeBase.toNat) ∧
    online.link.regs.intEnable = true ∧ State.reset.link.device = .offline := by decide

/-- The tail 7 is the last a ring of 8 accepts and 8 the first it does not; ring 2 is ABSENT. -/
theorem witness_SubmitTailByRingState :
    (online.link.operating = true ∧ online.link.device = .online ∧ (online.ring 1).state = .active ∧
      (7 : Word).toNat < (online.ring 1).size ∧ (online.ring 1).size ≤ (8 : Word).toNat) ∧
    (online.cpl.backlog.length < 32 ∧ online.cpl.claimants = []) ∧
    ¬({ online with cpl := { online.cpl with claimants := [.context 0] } }.cpl.claimants = []) ∧
    (online.ring 2).state = .absent := by decide

theorem witness_CplHeadGivesTheNewHead :
    online.link.device = .online ∧ (63 : Word).toNat < online.cpl.size ∧ online.cpl.size ≤ (64 : Word).toNat ∧
      (online.cpl.tail + 1) % online.cpl.size ≠ (63 : Word).toNat ∧ State.reset.link.device ≠ .online := by decide

/-- Offsets 0x4C and 0x7F read 0, 0x80 is outside; a width of 16, an offset of 2 and 64 bits at 0x18 are no access. -/
theorem witness_RegisterReadsByOffset :
    online.link.operating = true ∧ 0x4C ≤ 0x4C ∧ 0x7F < 0x80 ∧ 0x7C % 4 = 0 ∧
      ¬(16 = 32 ∧ 0x10 % 4 = 0 ∧ 0x10 < 0x80) ∧ ¬(32 = 32 ∧ 2 % 4 = 0 ∧ 2 < 0x80) ∧ ¬(32 = 32 ∧ 0x80 % 4 = 0 ∧ 0x80 < 0x80) ∧
      ¬(64 = 64 ∧ 0x18 ∈ [0x10, 0x20, 0x30]) := by decide

/-- Counts 0 and 65 are discarded, 1 and 64 taken; 128 is a count of 0. -/
theorem witness_IntCoalesceMakesTheTests :
    (128 : Word).toNat % 128 = 0 ∧ 64 < (65 : Word).toNat % 128 ∧ 1 ≤ (1 : Word).toNat % 128 ∧
      (64 : Word).toNat % 128 ≤ 64 ∧
      (1 : Word).toNat % 128 ≤ { online.link with unsignalled := 1 }.unsignalled ∧
      (online.link.unsignalled < (64 : Word).toNat % 128 ∧ (1000 : Time).toNat ≤ online.timeBase.toNat) ∧
      State.reset.link.device ≠ .online := by decide

theorem witness_RegisterWriteByOffset :
    0x18 ∉ [0x10, 0x20, 0x30] ∧ ((1 : BitVec 64).getLsbD 0 = true) ∧ ((2 : BitVec 64).getLsbD 0 = false) ∧
      0x08 ∈ [0x00, 0x08, 0x0C] ∧ 0x4C ≤ 0x4C ∧ 0x12 % 4 ≠ 0 ∧ 8 ≠ 32 ∧ 128 ≠ 64 := by decide

/-- Every ring that `rings` names with unfetched entries, and the current ring. -/
def intaking (rings : Vector Ring 5) (current : Option RingId) (count : Nat) : State :=
  { online with intake := { online.intake with rings := rings, current := current, taken := count } }

/-- An ACTIVE ring of 8 and weight 2 with a tail. -/
def ringOf (tail : Nat) : Ring := ⟨.active, 0x10002000, 8, 2, 0, tail⟩

/-- The admin ring waits; else ring 1's turn goes on at a count of 1 and is over at 2; else the search wraps from ring 4
to ring 1; else none waits; and 32 pending entries or 24 completions forbid the fetch. -/
theorem witness_FetchBeginServesTheArbitersRing :
    let none' := ringOf 0
    let s1 := intaking #v[ringOf 1, ringOf 1, none', none', none'] none 0
    let s2 := intaking #v[none', ringOf 3, none', ringOf 1, none'] (some 1) 1
    let s3 := intaking #v[none', ringOf 1, none', none', none'] (some 1) 2
    (s1.link.device = .online ∧ s1.intake.table.length < 32 ∧ s1.cpl.backlog.length < 24 ∧ s1.intake.fetch = none) ∧
    ((s1.ring 0).state = .active ∧ (s1.ring 0).unfetched ≠ 0) ∧
    ((s2.ring 0).unfetched = 0 ∧ s2.intake.current = some 1 ∧ (s2.ring 1).unfetched ≠ 0 ∧
      s2.intake.taken < (s2.ring 1).weight ∧ s2.intake.turnOver = false) ∧
    (¬s3.intake.taken < (s3.ring 1).weight ∧ (s3.ring 1).unfetched ≠ 0 ∧
      (s3.ring 2).unfetched = 0 ∧ (s3.ring 3).unfetched = 0 ∧ (s3.ring 4).unfetched = 0) ∧
    (∀ r, (online.ring r).unfetched = 0 ∨ (online.ring r).state = .absent) ∧
    ¬(List.replicate 32 (held 0 0)).length < 32 ∧ ¬(List.replicate 24 (completionOf (held 0 0) (answer .ok 0 0 0) 0)).length < 24 := by
  decide

/-- Each clause in turn: opcode 0; REPORT on ring 1; a STOP of context 8; CALIBRATE with bit 1 of its flags; a CREATE_RING
with nothing reserved, whose last byte 0x100020FF lies below the limit 0x10002100 and not below 0x100020FF; and one of
size 0, tested as written at 0x10001FFF. -/
theorem witness_CommonChecksInOrder :
    let good := (Command.createRing 1 2 4 0x10002000).record 5
    let none' := (Command.createRing 1 2 0 0x10002000).record 5
    byteAt (record []) 0 = 0 ∧
    (byteAt (record [0x04]) 0 = 0x04 ∧ (1 : RingId) ≠ 0) ∧
    (byteAt (record [0x22, 8]) 0 = 0x22 ∧ 7 < (byteAt (record [0x22, 8]) 1).toNat) ∧
    byteAt (record [0x30, 0, 0, 0, 0, 0, 0, 0, 3]) 8 &&& ~~~(1 : Byte) ≠ 0 ∧
    ((∀ i < 64, byteAt good i &&& ~~~(Opcode.createRing.assignedBits i) = 0) ∧ Opcode.createRing.code = byteAt good 0) ∧
    ((longAt good 16).toNat % 64 = 0 ∧ 64 * (wordAt good 12).toNat = 256 ∧
      ((longAt good 16).toNat : Int) + 256 - 1 < (0x10002100 : Addr).toNat ∧
      ((0x100020FF : Addr).toNat : Int) ≤ (longAt good 16).toNat + 256 - 1) ∧
    ((longAt none' 16).toNat % 64 = 0 ∧ 64 * (wordAt none' 12).toNat = 0 ∧
      ((longAt none' 16).toNat : Int) + 0 - 1 < (0x10002000 : Addr).toNat ∧
      ((0x10001FFF : Addr).toNat : Int) ≤ (longAt none' 16).toNat + 0 - 1) := by decide

theorem witness_RecordsReadBack :
    (List.replicate 16 (0 : Half)).length = 16 ∧ (Command.arm 3).opcode.adminOnly = false ∧
      (Command.report 0x40).addressOk 0x240 = true := by decide

/-- The fetch of `fetching` returns: its command passes the checks, or fails them; and the same with the ring halted. -/
theorem witness_FetchReturnTakesTheRecord :
    ((record [0x23, 3]).length = 64 ∧ fetching.link.device = .online ∧ fetching.link.operating = true ∧
      fetching.link.bus.outstanding.findIdx? (fun r => r.request.kind == .fetch) = some 0 ∧
      fetching.intake.fetch = some ⟨1, 5⟩ ∧ fetching.entry? 5 = some ⟨5, 1, false, 0, 0, 0, 0⟩ ∧
      (fetching.ring 1).state = .active) ∧
    commonCheck 1 fetching.link.regs.dmaLimit (record [0x23, 3]) = .inr (.abort 3) ∧
    commonCheck 1 fetching.link.regs.dmaLimit (record []) = .inl .badOpcode ∧
    ((fetching.setRing 1 { fetching.ring 1 with state := .halted }).ring 1).state = .halted := by decide

/-- The fetch in flight of an ACTIVE ring, with room and behind a claimant; and the same with the ring halted. -/
theorem witness_FailedFetchHaltsItsRing :
    fetching.link.bus.outstanding[0]? = some ⟨⟨.fetch, 0x100021C0, 64⟩, 900⟩ ∧ fetching.link.device = .online ∧
      fetching.link.operating = true ∧ fetching.intake.fetch = some ⟨1, 5⟩ ∧ (fetching.ring 1).state = .active ∧
      (fetching.cpl.backlog.length < 32 ∧ fetching.cpl.claimants = []) ∧
      ¬({ fetching.cpl with claimants := [.context 0] } : CompletionWriter).claimants = [] ∧
      ((fetching.setRing 1 { fetching.ring 1 with state := .halted }).ring 1).state ≠ .active := by decide

/-- The load of `loading`: its sixteen bytes are good and fit; with no quota they do not fit; a repeat of 0 in step 1 is
a bad step. A load that has ended leaves its context without one. -/
theorem witness_LoadEndsWithItsRead :
    (loading.link.bus.outstanding[0]? = some ⟨⟨.steps 0 7, 0x10004000, 16⟩, 900⟩ ∧ loading.link.device = .online ∧
      loading.link.operating = true ∧ (loading.ctx 0).load = some 7 ∧
      loading.entry? 7 = some (entryOf 1 (.loadSequence 0 2 0x10004000)) ∧ exampleSteps.length = 16) ∧
    (∀ r ∈ rawStepsOf 2 exampleSteps, loading.stepFault r = none) ∧ (0 + 1) * 32 ≤ 512 * (loading.ctx 0).cap.quota ∧
    ¬(0 + 1) * 32 ≤ 512 * (Ctx.reset).cap.quota ∧
    ((rawStepsOf 2 [0, 15, 0, 4, 0, 0, 0, 0, 1, 15, 0, 0, 0, 0, 0, 0])[1]?.map loading.stepFault = some (some 5)) ∧
    ((withCtx loading 0 readyCtx).ctx 0).load ≠ some 7 := by
  decide

theorem witness_CreateRingByItsChecks :
    Taken (given online 0 (.createRing 4 8 1024 0)) 0 (.createRing 4 8 1024 0) (entryOf 0 (.createRing 4 8 1024 0)) :=
  taken _ _ _ rfl

/-- Ring 5 is no ring, ring 2 is ABSENT, ring 1 is ACTIVE; it is busy with an entry of its own. -/
theorem witness_DeleteRingByItsChecks :
    (∀ n : Byte, Taken (given online 0 (.deleteRing n)) 0 (.deleteRing n) (entryOf 0 (.deleteRing n))) ∧
      4 < (5 : Byte).toNat ∧ (online.ring 2).state = .absent ∧ (online.ring 4).state = .absent ∧
      (online.ring 1).state ≠ .absent ∧ (held 3 1).ring = 1 :=
  ⟨fun n => taken _ _ _ rfl, by decide⟩

/-- A BARRIER with no earlier entry, and one behind entry 2; and a backlog of 30 with room for both completions. -/
theorem witness_BarrierFollowsEarlierCommands :
    Taken (given online 1 .barrier) 1 .barrier (entryOf 1 .barrier) ∧
    (¬∃ e ∈ (given online 1 .barrier).intake.table, e.ring = 1 ∧ e.age < 7) ∧
    ((held 2 1).ring = 1 ∧ (held 2 1).age < 7) ∧
    (let s := { online with intake := { online.intake with table := [held 2 1, held 5 1], barriers := [5] } };
      s.entry? 2 = some (held 2 1) ∧ s.entry? 5 = some (held 5 1) ∧
        (∀ x ∈ s.intake.table, x.ring = 1 → x.age < 5 → x.age = 2) ∧ s.cpl.claimants = []) ∧ 30 + 2 ≤ 32 :=
  ⟨taken _ _ _ rfl, by decide, by decide, by decide, by decide⟩

theorem witness_ReportTakesAndSendsASnapshot :
    Taken (given online 0 (.report 64)) 0 (.report 64) (entryOf 0 (.report 64)) ∧
    (let s := given online 0 (.report 64);
      let u := { s with link := { s.link with bus := { s.link.bus with
        onLink := some (.report ⟨7, 64, [], 600⟩), busy := true } } };
      u.link.device = .online ∧ u.link.bus.busy = true ∧ u.entry? 7 = some (entryOf 0 (.report 64))) :=
  ⟨taken _ _ _ rfl, by decide⟩

/-- The parameters accepted, and those of channel 16 as a DIFF, which fail the third check. -/
theorem witness_SetChannelByItsChecks (q : ChannelParams) :
    Taken (given online 0 (.setChannel q)) 0 (.setChannel q) (entryOf 0 (.setChannel q)) := taken _ _ _ rfl

theorem witness_LimitReportIsOneShotUntilRearmed :
    (∀ n : Byte, Taken (given online 0 (.rearmLimit n)) 0 (.rearmLimit n) (entryOf 0 (.rearmLimit n))) ∧
      31 < (32 : Byte).toNat ∧ (31 : Byte).toNat ≤ 31 ∧
      (let s := online.setChan 5 { Channel.reset with report := true };
        (s.chan 5).report = true ∧ (s.chan 5).armed = true ∧ s.cpl.backlog.length < 32 ∧ s.cpl.claimants = []) ∧
      (online.chan 5).report = false :=
  ⟨fun n => taken _ _ _ rfl, by decide⟩

theorem witness_LimitStateTable :
    ((online.setChan 5 { Channel.reset with limitEnable := true }).chan 5).limitEnable = true ∧
      (online.chan 5).limitEnable = false := by decide

/-- A step count of 0 and of 65 is refused; 64 steps are accepted with 256 slots free, and refused with none. -/
theorem witness_LoadSequenceByItsChecks :
    (∀ n : Half, Taken (given defined 1 (.loadSequence 0 n 0)) 1 (.loadSequence 0 n 0) (entryOf 1 (.loadSequence 0 n 0))) ∧
      (0 : Half).toNat < 1 ∧ 64 < (65 : Half).toNat ∧ 1 ≤ (64 : Half).toNat ∧
      (defined.ctx 0).state = .defined ∧ (defined.ctx 0).cap.queue = [] ∧
      256 - (defined.ctxs.toList.map fun y => y.slots).sum = 256 :=
  ⟨fun n => taken _ _ _ rfl, by decide⟩

/-- Every field of the named kinds: the last line, the last channel, each edge and direction. -/
def lineParams : DefineParams :=
  { exampleParams with
    mode := 0, source := 1, paceLine := 15, paceEdge := 2, start := 2, startLine := 31, startEdge := 3
    stop := 1, stopLine := 0, stopEdge := 1, bufferPolicy := 0, slipPolicy := 1, format := 0, period := 0 }

/-- The example's parameters pass; a priority of 4 fails check 1. -/
theorem witness_DefineContextByItsChecks :
    (∀ q, Taken (given online 1 (.defineContext 0 q)) 1 (.defineContext 0 q) (entryOf 1 (.defineContext 0 q))) ∧
      defineFault exampleParams = none ∧ defineFault { exampleParams with priority := 4 } = some 1 ∧
      (online.ctx 0).state = .unbound ∧ (online.ctx 0).cap.queue = [] ∧
      (lineParams.paceLine = BitVec.ofNat 8 (15 : LineId).val ∧ lineParams.startLine = BitVec.ofNat 8 (31 : ChanId).val ∧
        lineParams.stopLine = BitVec.ofNat 8 (0 : LineId).val ∧ defineFault lineParams = none) ∧
      ({ lineParams with source := 2, start := 1, startLine := 15, startEdge := 1 }.startLine =
        BitVec.ofNat 8 (15 : LineId).val) :=
  ⟨fun q => taken _ _ _ rfl, by decide⟩

/-- A READY context with an IMMEDIATE start and one with a LIMIT start pass every check; an UNBOUND one fails the first. -/
theorem witness_ArmByItsChecks :
    Taken (given ready 1 (.arm 0)) 1 (.arm 0) (entryOf 1 (.arm 0)) ∧
      ((given ready 1 (.arm 0)).armRefusal 0 = none ∧ (ready.ctx 0).definition.start = .immediate) ∧
      (withCtx ready 1 { readyCtx with defn := some { scanDefinition with start := .limit 5 .above } }).armRefusal 1 =
        none ∧
      online.armRefusal 2 = some (answer .badState 0 0 0) :=
  ⟨taken _ _ _ rfl, by decide⟩

theorem witness_StartTriggerStartsTheRun :
    let s := withCtx online 1 { readyCtx with
      state := .armed, defn := some { scanDefinition with start := .limit 5 .either }
      pacing := { Pacing.reset with watcher := .start } }
    (s.ctx 1).pacing.watcher = .start ∧
      (s.ctx 1).definition.start.metBy ⟨5, .below, .inside, 9, 0, 30⟩ = true ∧
      (s.ctx 1).definition.start.metBy ⟨6, .below, .inside, 9, 0, 30⟩ = false := by decide

/-- Context 0 RUNNING in a pacing mode with a tick state and a store. -/
def run (mode : PaceMode) (tick : TickState) (store : List Frame) : Ctx :=
  { readyCtx with
    state := .running
    defn := some { scanDefinition with mode := mode }
    run := { Run.reset with armEntry := some 1, numbered := 1, nextScan := 1 }
    pacing := { Pacing.reset with phase := .run, tick := tick, origin := 1000 }
    cap := { readyCtx.cap with store := store } }

/-- Context 0 ARMED. -/
def armed : Ctx := { readyCtx with
  state := .armed, run := { Run.reset with armEntry := some 1 }, pacing := { Pacing.reset with watcher := .start } }

theorem witness_StopEndsTheRunInOrder :
    (∀ x, Taken (given (withCtx online 0 x) 1 (.stop 0)) 1 (.stop 0) (entryOf 1 (.stop 0))) ∧
      readyCtx.state ∉ [.armed, .running, .stopping] ∧
      ((run .step .free [frame 0 .filling]).definition.mode = .step ∧
        (run .step .free [frame 0 .filling]).cap.store.any (fun f => f.cond == .filling) = true) ∧
      (run .step .free []).cap.store.any (fun f => f.cond == .filling) = false ∧
      ((run .scan .latched []).definition.mode = .scan ∧ (run .scan .latched []).pacing.tick = .latched) ∧
      (run .scan .granted []).pacing.tick ≠ .latched ∧ (run .scan .granted []).state = .running ∧
      (armed.state = .armed ∧ armed.run.endReason = none) ∧ (stopping.ctx 3).state = .stopping :=
  ⟨fun x => taken _ _ _ rfl, by decide⟩

theorem witness_AbortByTheStateItFinds :
    (∀ x, Taken (given (withCtx online 0 x) 1 (.abort 0)) 1 (.abort 0) (entryOf 1 (.abort 0))) ∧
      ((stopping.ctx 3).state = .stopping ∧ (stopping.ctx 3).run.endReason ≠ some .aborted) ∧
      (armed.state = .armed ∧ armed.run.endReason ≠ some .aborted) ∧
      { armed.run with endReason := some .aborted }.endReason = some .aborted ∧
      ((loading.ctx 0).state = .loading ∧ (loading.ctx 0).load = some 7) ∧
      (readyCtx.state = .ready ∧ readyCtx.cap.queue = [] ∧ [buffer 1] ≠ []) ∧
      Ctx.reset.state ∈ [.unbound, .defined, .halted] :=
  ⟨fun x => taken _ _ _ rfl, by decide⟩

theorem witness_ResetAndReleaseReturnTheBuffers :
    (∀ x, Taken (given (withCtx online 0 x) 1 (.resetContext 0)) 1 (.resetContext 0) (entryOf 1 (.resetContext 0))) ∧
      (∀ x, Taken (given (withCtx online 0 x) 1 (.releaseContext 0)) 1 (.releaseContext 0)
        (entryOf 1 (.releaseContext 0))) ∧
      readyCtx.state ∈ [.defined, .ready, .halted] ∧ armed.state ∉ [.defined, .ready, .halted] ∧
      Ctx.reset.state = .unbound ∧ armed.state ∈ [.loading, .armed, .running, .stopping] :=
  ⟨fun x => taken _ _ _ rfl, fun x => taken _ _ _ rfl, by decide⟩

/-- A SOFT context RUNNING. -/
def soft (tick : TickState) : Ctx :=
  { run .scan tick [] with defn := some { scanDefinition with source := .soft } }

theorem witness_PulseIsOneTick :
    (∀ x, Taken (given (withCtx online 0 x) 1 (.pulse 0)) 1 (.pulse 0) (entryOf 1 (.pulse 0))) ∧
      readyCtx.state ∉ [.armed, .running, .stopping] ∧
      ((run .scan .free []).state ∈ [.armed, .running, .stopping] ∧ (run .scan .free []).definition.source ≠ .soft) ∧
      ((soft .free).definition.source = .soft ∧ (soft .free).pacing.phase ≠ .off) ∧
      ((withCtx online 0 (soft .free)).deliverTick 0).2 = .taken 0 ∧
      ((withCtx online 0 (soft .latched)).deliverTick 0).2 = .slip ∧
      ((withCtx online 0 { soft .free with pacing := { (soft .free).pacing with countReached := true } }).deliverTick 0).2 =
        .notTaken :=
  ⟨fun x => taken _ _ _ rfl, by decide⟩

theorem witness_TickLatchHoldsOneTick :
    armed.pacing.phase = .off ∧
      ((run .scan .free []).pacing.phase = .run ∧ (run .scan .free []).pacing.tick = .free ∧
        (run .scan .free []).definition.mode = .scan) ∧
      ((run .step .free []).definition.mode = .step ∧ (3 : Nat) ≠ 0) ∧
      ((run .scan .latched []).pacing.tick ≠ .free ∧ (run .scan .latched []).definition.slipPolicy = .count) ∧
      { scanDefinition with slipPolicy := .halt }.slipPolicy = .halt ∧
      { Pacing.reset with phase := .history, tick := .latched }.phase = .history := by decide

/-- A RUNNING context with room; one whose store is at its capacity of 32; and a history scan. -/
theorem witness_TickBeginsAScan :
    let full := run .scan .free (List.replicate 32 (frame 0 .complete))
    (full.pacing.phase ≠ .off ∧ full.pacing.tick = .free ∧ full.definition.mode = .scan ∧
      full.pacing.countReached = false ∧ full.pacing.nextPos = 0) ∧
    ((16 + 2 * (full.steps.map fun st => st.reps).sum + 7) / 8 * 8 = 32 ∧ 512 * full.cap.quota / 32 = 32) ∧
    ((run .scan .free []).cap.store.length < 32 ∧ 32 ≤ full.cap.store.length ∧ full.definition.bufferPolicy = .discard ∧ full.state = .running) ∧
    { scanDefinition with bufferPolicy := .halt }.bufferPolicy = .halt ∧
    { scanDefinition with count := 1 }.count = (run .scan .free []).run.begun + 1 := by decide

/-- The tick at k = 3 at time 31000 is the first not past at time 21001; at its own instant it is delivered too. -/
theorem witness_InternalTickComesAtItsInstant :
    let x := run .scan .free []
    (x.definition.source = .internal 10000 ∧ x.pacing.phase ≠ .off ∧ x.pacing.origin = 1000) ∧
      (x.pacing.ticks ≤ 3 ∧ (21001 : Time).toNat ≤ x.pacing.origin.toNat + 3 * 10000 ∧
        x.pacing.origin.toNat + (3 - 1) * 10000 < (21001 : Time).toNat) ∧
      (31000 : Time).toNat ≤ x.pacing.origin.toNat + 3 * 10000 ∧ armed.pacing.phase = .off := by decide

/-- Positions 3 and 4 of the example's steps are the last of its first step and the first of its second. -/
theorem positions : PositionOf readyCtx.steps 3 ⟨0, 15, 0, 4⟩ ∧ PositionOf readyCtx.steps 4 ⟨1, 15, 0, 4⟩ :=
  ⟨⟨[], [⟨1, 15, 0, 4⟩], by decide, by decide, by decide⟩, ⟨[⟨0, 15, 0, 4⟩], [], by decide, by decide, by decide⟩⟩

/-- A slot in the middle of a grant and the last slot, of an analog and of a pseudo-input. -/
theorem witness_SlotEndHandsTheSampleOn :
    let g : Grant := ⟨0, ⟨3, 1060, 1080, .analog 5 .single 7 .unipolar⟩, 7, 1160⟩
    let d : Grant := ⟨0, ⟨7, 1140, 1160, .digital 9⟩, 7, 1160⟩
    let s := { withCtx online 0 (run .scan .granted [frame 0 .filling]) with
      conv := { Conversion.reset with holder := .context g } }
    (s.link.device = .online ∧ s.conv.holder = .context g) ∧
      (([7, 6, 5, 4, 3, 2, 1, 0] : List CtxId).Nodup ∧ ∀ c : CtxId, c ∈ ([7, 6, 5, 4, 3, 2, 1, 0] : List CtxId)) ∧ (7 : Nat) ≤ 7 ∧ 8 + 7 < 16 ∧
      PositionOf (s.ctx g.ctx).steps (g.slot.pos + 1) ⟨1, 15, 0, 4⟩ ∧
      g.slot.pos < g.last ∧ d.last ≤ d.slot.pos ∧ d.slot.input = .digital 9 ∧
      (s.limitCheck 5 100 0 1060).2 = none ∧
      ((s.setChan 5 { Channel.reset with limitEnable := true, low := 200 }).limitCheck 5 100 0 1060).2 =
        some ⟨5, .below, .unknown, 100, 0, 1060⟩ ∧
      ((run .step .granted []).definition.mode = .step ∧ (run .step .granted []).pacing.phase ≠ .off ∧
        0 + 1 < ((run .step .granted []).steps.map fun st => st.reps).sum ∧
        ((run .step .granted []).steps.map fun st => st.reps).sum ≤ 7 + 1) := by
  refine ⟨by decide, by decide, by decide, by decide, positions.2, by decide⟩

/-- File 06, section 6.2, at time 60: contexts 1, 2 and 3 wait and context 3 alone has priority 1; last granted is 5, so
context 3 is the sixth looked at. -/
theorem witness_ArbiterServesByPriorityThenInTurn :
    let w (p : Nat) : Ctx := { run .step .latched [] with defn := some { scanDefinition with mode := .step, priority := p } }
    let s := { withCtx (withCtx (withCtx online 1 (w 2)) 2 (w 2)) 3 (w 1) with
      conv := { Conversion.reset with lastGranted := some 5 } }
    (s.link.device = .online ∧ s.conv.holder = .none ∧ s.conv.calRequest = false) ∧
      ((s.ctx (Fin.ofNat 8 (5 + 1 + 5))).pacing.tick = .latched ∧
        ∀ d, (s.ctx d).pacing.tick = .latched →
          (s.ctx (Fin.ofNat 8 (5 + 1 + 5))).definition.priority ≤ (s.ctx d).definition.priority) ∧
      (∀ j < 5, ¬((s.ctx (Fin.ofNat 8 (5 + 1 + j))).pacing.tick = .latched ∧
        ∀ d, (s.ctx d).pacing.tick = .latched →
          (s.ctx (Fin.ofNat 8 (5 + 1 + j))).definition.priority ≤ (s.ctx d).definition.priority)) ∧
      s.chosenRequest = some 3 ∧ (∀ c, (online.ctx c).pacing.tick ≠ .latched) ∧
      { Conversion.reset with calRequest := true }.calRequest = true ∧
      (0 ≤ 34 ∧ 34 ≤ 34 ∧ 15 = 15 ∧ 7 ≤ 7) ∧ PositionOf (s.ctx 3).steps 3 ⟨0, 15, 0, 4⟩ := by
  refine ⟨by decide, by decide, by decide, by decide, by decide, by decide, by decide, positions.1⟩

theorem witness_TimersExpireAtTheirInstants :
    online.link.device = .online ∧ { armed.pacing with deadline := some 21000 }.deadline = some 21000 ∧
      armed.pacing.deadline = none ∧ { readyCtx.cap with flushDeadline := some 5, queue := [buffer 1] }.queue ≠ [] ∧
      readyCtx.cap.flushDeadline = none ∧
      ((online.setLine 2 ⟨.event 0 .scanStart, false, some 1010⟩).line 2).pulseEnd = some 1010 ∧
      (online.line 3).pulseEnd = none := by decide

/-- A run ended STOPPED with one STOP, one ABORT and both outputs deferred to its end. A backlog of 27 has just room for the
five completions, one of 29 for the first three; one of 32 has none, nor has one with a claimant. -/
theorem witness_RunEndAnswersArmThenStopsThenAborts :
    let x : Ctx := { readyCtx with
      state := .stopping
      run := { Run.reset with endReason := some .stopped, armEntry := some 1, stops := [2], aborts := [3] } }
    let s (n : Nat) : State := { withCtx online 0 x with
      intake := { online.intake with table := [held 1 1, held 2 1, held 3 2, held 4 1, held 5 1] }
      outs := #v[⟨0, some ⟨9, .runEnd, 0, 4⟩⟩, ⟨0, some ⟨8, .runEnd, 0, 5⟩⟩]
      cpl := { online.cpl with backlog := List.replicate n (completionOf (held 9 1) (answer .ok 0 0 0) 0) } }
    let deferred (o : Fin 2) : Option Nat :=
      match ((s 27).out o).update with
      | some d => if d.event = .runEnd ∧ d.ctx = 0 then some d.entry else none
      | none => none
    (((s 27).ctx 0).state = .stopping ∧ ((s 27).ctx 0).run.endReason = some .stopped ∧
      ((s 27).ctx 0).run.armEntry = some 1 ∧
      ((s 27).ctx 0).cap.store = [] ∧ ((s 27).ctx 0).cap.writing = false ∧ ((s 27).ctx 0).cap.returns = [] ∧
      ((s 27).ctx 0).cap.queue = [] ∧ (s 27).holdsConverter 0 = false) ∧
    ((∀ p ∈ [held 1 1, held 2 1, held 3 2, held 4 1, held 5 1], p ∈ (s 27).intake.table) ∧
      ((s 27).intake.table.map (·.age)).Nodup ∧ ([(0 : Fin 2), 1].filterMap deferred = [4, 5]) ∧
      (s 27).intake.barriers = [] ∧ (s 27).cpl.claimants = [] ∧
      (s 27).cpl.backlog.length + 1 + 1 + 1 ≤ 32 ∧ (s 29).cpl.backlog.length + 1 + 1 + 1 ≤ 32) ∧
    (¬(s 32).cpl.backlog.length < 32 ∧ Claim.context 0 ∉ (s 32).cpl.claimants) ∧
    ((s 27).settleCtx 0).cpl.backlog.length = 32 ∧ ((s 29).settleCtx 0).cpl.claimants.length = 2 := by decide

/-- The three codes of the example: the sums of R126 before the clamp. -/
theorem witness_CorrectionRoundsAndClamps :
    let sum (raw : Int) : Int := 2 * ((raw - 37) * 65687) + 65536
    (131072 * 40055 ≤ sum 40000 ∧ sum 40000 < 131072 * 40056) ∧ (131072 * 65644 ≤ sum 65530 ∧ sum 65530 < 131072 * 65645) ∧
      (131072 * (-17) ≤ sum 20 ∧ sum 20 < 131072 * (-16)) := by decide

theorem witness_CalibrateTakesTheConverter :
    (∀ b, Taken (given online 0 (.calibrate b)) 0 (.calibrate b) (entryOf 0 (.calibrate b))) ∧
      (calibrating .idle .none).conv.cal.entry ≠ none ∧
      (online.conv.cal.entry = none ∧ online.conv.holder = .none ∧
        ∀ c, (online.ctx c).state = .unbound) ∧ ((running [] []).ctx 0).state = .running :=
  ⟨fun b => taken _ _ _ rfl, by decide⟩

/-- A reading out of tolerance, a good one in entries 0 and 15, and a copy being written. -/
theorem witness_CalibrationMeasuresStoresAndEnds :
    let s := calibrating (.measuring 15) .calibration
    (s.link.device = .online ∧ s.conv.cal.entry = some 7 ∧ s.entry? 7 = some (entryOf 0 (.calibrate true)) ∧
      s.conv.calRequest = false ∧ (∀ c, (s.ctx c).pacing.tick ≠ .latched) ∧ s.conv.holder = .calibration ∧
      s.conv.cal.phase = .measuring 15 ∧ s.conv.cal.store = true) ∧
      calibrationFault 0 8192 57344 = none ∧ calibrationFault 15 4096 61440 = none ∧
      calibrationFault 0 57344 57344 = some 2 ∧ calibrationFault 0 10242 59394 = some 1 ∧
      (calibrating (.storing 1) .none).conv.cal.phase = .storing 1 ∧
      (CopyValid s.conv.nv[0] ∧ ¬CopyValid s.conv.nv[1]) ∧ ¬CopyValid NvCopy.blank ∧
      (CopyValid (goodCopy 3) ∧ CopyValid (goodCopy 4) ∧
        (goodCopy 3).generation.toNat < (goodCopy 4).generation.toNat ∧
        ¬(goodCopy 4).generation.toNat < (goodCopy 4).generation.toNat) := by
  unfold CopyValid
  decide

/-- Lengths 256 and 1,048,576 pass the first check, 255 and 1,048,640 do not; a queue of 16 is full. -/
theorem witness_PostBufferByItsChecks :
    (∀ n, Taken (given ready 1 (.postBuffer 0 n 5 0)) 1 (.postBuffer 0 n 5 0) (entryOf 1 (.postBuffer 0 n 5 0))) ∧
      ((given ready 1 (.postBuffer 0 256 5 0)).postFault 0 256 = none) ∧ (ready.postFault 0 1048576 = none) ∧
      (ready.postFault 0 255 ≠ none ∧ ready.postFault 0 1048640 ≠ none ∧ online.postFault 0 256 ≠ none) ∧
      (withCtx ready 0 { readyCtx with cap := { readyCtx.cap with queue := List.replicate 16 (buffer 1) } }).postFault 0
        256 = some (answer .queueFull 16 0 0) :=
  ⟨fun n => taken _ _ _ rfl, by decide⟩

/-- A COMPLETE frame of 32 bytes: the open buffer has just room for it, or one byte less than a frame, or is due; the
head is closed, within the fault limit or beyond it; or there is none. -/
theorem witness_FrameWriteBeginTakesTheOldestFrame :
    let x := (running [frame 8 .complete] []).ctx 0
    let tight : Buffer := { buffer 1 with opened := true, used := 224 }
    ((running [frame 8 .complete] []).link.device = .online ∧ x.state = .running ∧ x.cap.writing = false ∧
      x.cap.store = [frame 8 .complete] ∧ (frame 8 .complete).cond = .complete ∧ x.cap.queue = []) ∧
      (tight.opened = true ∧ tight.due = none ∧ x.frameSize ≤ tight.length - tight.used) ∧
      ({ tight with used := 225 }.length - { tight with used := 225 }.used < x.frameSize) ∧
      { tight with due := some .filled }.due ≠ none ∧
      ((buffer 1).opened = false ∧ x.cap.faultLimit ≠ some 0 ∧ { x.cap with faultLimit := some 0 }.faultLimit = some 0) := by
  decide

/-- The frame write on the link, into an open buffer, or into one that an ABORT has moved to the return list; and a flush
with a store, without one, in a fault end, and outside STOPPING. -/
theorem witness_FrameWriteEndDeliversAndFlushes :
    let s := writing false
    let x := s.ctx 0
    (s.link.device = .online ∧ s.link.bus.busy = true ∧ x.cap.writing = true ∧ x.cap.store = [frame 0 .writing] ∧
      x.cap.queue.map (·.opened) = [true]) ∧
      (∀ b ∈ { x.cap with queue := [], returns := [.buffer (buffer 1)] }.queue, b.opened = false) ∧
      x.state ≠ .stopping ∧
      (let y := stopping.ctx 3;
        y.state = .stopping ∧ y.cap.writing = false ∧ y.cap.store ≠ [] ∧ y.cap.faultLimit ≠ some 0 ∧
          ({ y.cap with store := [] } : Capture).queue.map (fun b : Buffer => (b.opened, b.due)) = [(true, none), (false, none)] ∧
          (∀ b ∈ { y.cap with queue := [buffer 1], faultLimit := some 0 }.queue, b.opened = false ∧ b.due = none) ∧
          { buffer 1 with due := some .filled }.due ≠ none ∧ y.cap.returns = [] ∧
          ReturnItem.buffer (buffer 1) ∈ { y.cap with returns := [.buffer (buffer 1)] }.returns) := by decide

/-- A claimant of each kind with a backlog of 31; a BARRIER of the ring behind it, and none; an ended run with a STOP to
answer, and with none. -/
theorem witness_LongestWaitingClaimantIsHandedIn :
    let b : Buffer := { buffer 1 with due := some .filled }
    let s (claim : Claim) (x : Ctx) (barriers : List Nat) : State :=
      let g := withCtx (given online 1 (.arm 0)) 0 x
      { g with
        intake := { g.intake with table := g.intake.table ++ [held 9 1], barriers := barriers }
        cpl := { online.cpl with
          backlog := List.replicate 31 (completionOf (held 9 1) (answer .ok 0 0 0) 0), claimants := [claim] } }
    let arm := entryOf 1 (.arm 0)
    let command := Claim.command 7 (answer .ok 0 0 0)
    let c1 := s command readyCtx []
    let c2 := s (.context 0) { readyCtx with cap := { readyCtx.cap with returns := [.buffer b] } } []
    let c3 := s (.context 0) { readyCtx with cap := { readyCtx.cap with queue := [b] } } []
    let c4 := s (.context 0) { readyCtx with cap := { readyCtx.cap with returns := [.command 7 (answer .ok 0 0 0)] } } []
    let c5 := s (.context 0) { readyCtx with
      state := .stopping, run := { Run.reset with endReason := some .overrun, armEntry := some 7, stops := [9] } } []
    (c1.link.device = .online ∧ c1.cpl.claimants = [command] ∧ c1.cpl.backlog.length < 32) ∧
      (c1.entry? 7 = some arm ∧ barriersBehind c1 arm = []) ∧
      (barriersBehind (s command readyCtx [9]) arm = [9] ∧ (s command readyCtx [9]).entry? 9 = some (held 9 1)) ∧
      (s (.notice .indexError 1 0 8 8) readyCtx []).cpl.claimants = [.notice .indexError 1 0 8 8] ∧
      (s (.runTail 0 [⟨7, answer .ok 0 0 0⟩]) readyCtx []).cpl.claimants = [.runTail 0 [⟨7, answer .ok 0 0 0⟩]] ∧
      ((c2.ctx 0).cap.returns = [.buffer b] ∧ b.due = some .filled ∧ ¬(BufferStatus.filled = .aborted ∧ (c2.ctx 0).cap.writing = true)) ∧
      ((c3.ctx 0).cap.returns = [] ∧ (c3.ctx 0).cap.queue = [b]) ∧
      (c4.ctx 0).cap.returns = [.command 7 (answer .ok 0 0 0)] ∧
      ((c5.ctx 0).cap.returns = [] ∧ (c5.ctx 0).cap.queue = [] ∧ (c5.ctx 0).run.endReason = some .overrun ∧
        (c5.ctx 0).run.armEntry = some 7 ∧ (c5.ctx 0).state = .stopping ∧ (c5.ctx 0).cap.store = [] ∧
        (c5.ctx 0).cap.writing = false ∧ c5.holdsConverter 0 = false ∧ (c5.ctx 0).run.stops ≠ []) ∧
      (online.cpl.claimants = [] ∧ 32 ≤ (List.replicate 32 b).length) := by decide

/-- A backlog with a record and a ring that is not full, full, or being written; a record on the link that reaches the
count or does not; and the deadline with interrupts on, and without one. -/
theorem witness_RecordsAreWrittenInTurnAndSignalled :
    let m := completionOf (held 3 1) (answer .ok 1 2 3) 500
    let s := { online with cpl := { online.cpl with backlog := [m] } }
    (s.link.device = .online ∧ s.cpl.backlog = [m] ∧ s.cpl.writing = false ∧ (s.cpl.tail + 1) % s.cpl.size ≠ s.cpl.head) ∧
      (62 + 1) % 64 = 63 ∧ online.cpl.backlog = [] ∧
      ({ online.link.bus with onLink := some (.record 0 []), busy := true }.busy = true) ∧
      (online.link.regs.intEnable = true ∧ online.link.regs.intCount.toNat ≤ min 64 (1 + 1) ∧
        ¬online.link.regs.intCount.toNat ≤ min 64 (0 + 1)) ∧
      { online.link with deadline := some 1500 }.deadline = some 1500 ∧ online.link.deadline = none := by decide

/-- A BUFFER completion has a status of the list; a frame of eight samples takes 32 bytes FRAMED, and its last padding byte
stands at offset 55 of 56. -/
theorem witness_WrittenStructuresByOffset :
    ({ completionOf (held 3 1) (answer .ok 1 2 3) 500 with status := .buffer .filled }.status = .buffer .filled) ∧
      ((frame 8 .complete).samples[7]? = some 0 ∧ 16 + 2 * (frame 8 .complete).samples.length ≤ 32) ∧
      (16 + 2 * 19 ≤ 55 ∧ 55 < 56) := by decide

/-- Each class with the classes before it empty; a context eight places on, the last served itself; and FAILED. -/
theorem witness_BusServesTheLowestClass :
    let b := online.link.bus
    (online.link.operating = true ∧ online.link.endpoint.busMaster = true ∧ b.busy = false ∧ online.link.device = .online) ∧
      (b.class1 = [] ∧ b.class2 = [] ∧ (∀ c : CtxId, b.class3[c.val] = none) ∧ b.class4 = []) ∧
      { b with class1 := [.record 0 []] }.class1 ≠ [] ∧ { b with class1 := [.message .count] }.class1 ≠ [] ∧
      { b with class2 := [⟨.fetch, 0, 64⟩] }.class2 ≠ [] ∧ { b with class4 := [⟨1, 0, [], 0⟩] }.class4 ≠ [] ∧
      (let t : Vector (Option FrameWrite) 8 := #v[none, none, none, none, none, none, none, some ⟨0, []⟩];
        t[(Fin.ofNat 8 (7 + 1 + 7)).val] = some ⟨0, []⟩ ∧ ∀ j < 7, t[(Fin.ofNat 8 (7 + 1 + j)).val] = none) ∧
      ((after (exec .linkReturn lost)).link.device = .failed ∧
        (after (exec .linkReturn lost)).link.bus.class1 = [.message .failed]) ∧
      State.reset.link.device = .offline := by decide

/-- Line 0 fails unflagged with a setting, flagged with none, and in use; with sixteen zeros and no flag nothing fails. -/
theorem witness_SetLinesByItsChecks :
    (∀ f v, Taken (given online 0 (.setLines f v)) 0 (.setLines f v) (entryOf 0 (.setLines f v))) ∧
      online.lineFault 0 (0x0102 :: List.replicate 15 0) 0 = some .badParam ∧
      online.lineFault 1 (List.replicate 16 0) 0 = some .badParam ∧
      (online.setCounter 0 ⟨some (0, .rising), 0⟩).lineFault 1 (0x0102 :: List.replicate 15 0) 0 = some .lineInUse ∧
      (∀ l, online.lineFault 1 (0x0102 :: List.replicate 15 0) l = none) ∧
      ((online.line 0).mode = .input ∧ ((online.setLine 1 ⟨.output true, false, none⟩).line 1).mode = .output true ∧
        ((online.setLine 2 ⟨.event 3 .runActive, false, none⟩).line 2).mode = .event 3 .runActive ∧
        ((online.setLine 3 ⟨.event 3 .bufferRetired, false, some 9⟩).line 3).mode = .event 3 .bufferRetired) :=
  ⟨fun f v => taken _ _ _ rfl, by decide⟩

theorem witness_SetCounterByItsChecks :
    (∀ k s e, Taken (given online 0 (.setCounter k s e)) 0 (.setCounter k s e) (entryOf 0 (.setCounter k s e))) ∧
      online.counterFault 1 15 2 = none ∧ online.counterFault 1 16 2 = some .badParam ∧
      online.counterFault 0 255 0 = none ∧ online.counterFault 2 255 0 = some .badParam :=
  ⟨fun k s e => taken _ _ _ rfl, by decide⟩

theorem witness_SetOutputByItsChecks :
    (∀ c o k v, Taken (given ready 1 (.setOutput c o k v)) 1 (.setOutput c o k v) (entryOf 1 (.setOutput c o k v))) ∧
      ready.outputFault 0 1 0 = none ∧ ready.outputFault 0 1 2 = none ∧ ready.outputFault 0 1 3 = some .badParam ∧
      ready.outputFault 1 1 2 = some .badState :=
  ⟨fun c o k v => taken _ _ _ rfl, by decide⟩

/-- Line 4 is low and in INPUT mode, so a high level is an edge and a low one is none; context 1 takes it as its stop
trigger, context 2 as its start trigger and its tick. -/
theorem witness_LineEdgeGoesToCountersAndContexts :
    ((online.line 4).mode = .input ∧ (online.line 4).seen ≠ true ∧ ¬(online.line 4).seen ≠ false) ∧
      online.link.device ≠ .failed ∧ lost.link.device = .failed ∧
      (EdgeTaker.all.reverse.Nodup ∧ ∀ x ∈ EdgeTaker.all, x ∈ EdgeTaker.all.reverse) ∧
      (let stopped (x : Ctx) : Ctx := { x with
          defn := some { x.definition with stop := .line 4 .rising }, pacing := { x.pacing with watcher := .stop } }
        let a := stopped (run .step .free [frame 0 .filling])
        let b := stopped (run .scan .latched [frame 0 .filling])
        (a.pacing.watcher = .stop ∧ a.definition.stop = .line 4 .rising ∧ a.definition.mode = .step ∧
          a.cap.store.any (fun f => f.cond == .filling) = true) ∧
        (stopped (run .step .free [])).cap.store.any (fun f => f.cond == .filling) = false ∧
        (b.definition.stop = .line 4 .rising ∧ b.definition.mode = .scan ∧ b.pacing.tick = .latched) ∧
        (stopped (run .scan .granted [])).pacing.tick ≠ .latched) ∧
      (armed.pacing.watcher = .start ∧
        { scanDefinition with start := .line 4 .rising, source := .line 4 .rising }.source = .line 4 .rising) := by decide

/-- A state in use is within the bounds, and its next step has one. -/
theorem witness_StepKeepsCommandBounds :
    CommandBounds { online with pending := [.cplHead 5] } ∧
      step { online with pending := [.cplHead 5] } = .next { online with
        link := { online.link with regs := { online.link.regs with cplHead := 5 } }
        cpl := { online.cpl with head := 5 } } := ⟨⟨by decide, by decide⟩, rfl⟩

theorem witness_StepKeepsRegisterBounds :
    RegisterBounds { online with pending := [.cplHead 5] } ∧ ∃ t, step { online with pending := [.cplHead 5] } = .next t :=
  ⟨⟨by decide, by decide, by decide, by decide⟩, _, rfl⟩

theorem witness_StepKeepsContextBounds :
    ContextBounds { ready with pending := [.cplHead 5] } ∧ ∃ t, step { ready with pending := [.cplHead 5] } = .next t :=
  ⟨⟨by decide, by decide, by decide⟩, _, rfl⟩

end Sys2Proof.Tests
end

section
/-!
PROOFS. No command takes the pending table or the backlog past its 32 entries: one lemma for each shared operation, most
of them from `Calm`, and one case for each command.
-/

namespace Sys2Proof.Machine

open Sys2Proof

-- One thread at a time: each thread of a parallel proof reserves 1 GiB of the check's memory limit.
set_option Elab.async false

/-! ### The command path's tables -/

/-- From `s` to `t` neither the pending table nor the backlog grows past its 32 entries. -/
structure KeepsCommands (s t : State) : Prop where
  table : t.intake.table.length ≤ max 32 s.intake.table.length
  backlog : t.cpl.backlog.length ≤ max 32 s.cpl.backlog.length

theorem KeepsCommands.bounds {s t : State} (h : KeepsCommands s t) (b : CommandBounds s) : CommandBounds t :=
  ⟨by have := h.backlog; have := b.backlog; omega, by have := h.table; have := b.table; omega⟩

theorem KeepsCommands.trans {s t u : State} (h : KeepsCommands s t) (g : KeepsCommands t u) : KeepsCommands s u :=
  ⟨by have := h.table; have := g.table; omega, by have := h.backlog; have := g.backlog; omega⟩

/-- What is calm keeps the command path's tables. -/
theorem Calm.keeps {s t : State} (h : Calm s t) : KeepsCommands s t :=
  ⟨by have := h.table; omega, h.backlog⟩

theorem KeepsCommands.of_le {s t : State} (ht : t.intake.table.length ≤ s.intake.table.length)
    (hb : t.cpl.backlog.length ≤ s.cpl.backlog.length) : KeepsCommands s t := ⟨by omega, by omega⟩

/-- An update that leaves both tables alone. -/
theorem KeepsCommands.of_same {s t : State} (ht : t.intake.table = s.intake.table)
    (hb : t.cpl.backlog = s.cpl.backlog) : KeepsCommands s t := .of_le (by rw [ht]) (by rw [hb])

/-- What keeps both tables after an update that leaves them alone. -/
theorem KeepsCommands.after_same {s t u : State} (g : KeepsCommands t u)
    (ht : t.intake.table = s.intake.table) (hb : t.cpl.backlog = s.cpl.backlog) : KeepsCommands s u :=
  .trans (.of_same ht hb) g

/-- An update that leaves both tables alone, and then something calm. -/
theorem Calm.keeps_after {s t u : State} (h : Calm t u) (ht : t.intake.table = s.intake.table)
    (hb : t.cpl.backlog = s.cpl.backlog) : KeepsCommands s u := h.keeps.after_same ht hb

theorem KeepsCommands.refl (s : State) : KeepsCommands s s := .of_same rfl rfl

/-- After a reset both tables are empty. -/
theorem KeepsCommands.of_reset {s t : State} (ht : t.intake.table = []) (hb : t.cpl.backlog = []) :
    KeepsCommands s t := .of_le (by simp [ht]) (by simp [hb])

/-- An owner that keeps both tables with what it does keeps them as it takes its command. -/
theorem KeepsCommands.ownerTakes {s : State} {r : RingId} {cmd : Command} {act : Nat → State → State}
    (h : ∀ e t, KeepsCommands t (act e t)) : KeepsCommands s (s.ownerTakes r cmd act) := by
  unfold State.ownerTakes
  split
  · split
    · exact (h _ _).after_same rfl rfl
    · exact .refl s
  · exact .refl s

theorem KeepsCommands.hostAccess {s : State} {f : State → State} (h : KeepsCommands s (f s)) :
    KeepsCommands s (s.hostAccess f) := by
  unfold State.hostAccess
  split
  · exact h
  · exact .refl s

/-! ### The register window -/

theorem KeepsCommands.writeIntEnable (s : State) (v : Bool) : KeepsCommands s (s.writeIntEnable v) :=
  .of_same rfl rfl

theorem KeepsCommands.tryEnable (s : State) : KeepsCommands s s.tryEnable := by
  unfold State.tryEnable
  split <;> exact .of_same rfl rfl

theorem KeepsCommands.writeControl (s : State) (enable intEnable : Bool) :
    KeepsCommands s (s.writeControl enable intEnable) := by
  unfold State.writeControl
  split
  · exact .trans (.tryEnable s) (.writeIntEnable _ _)
  · exact .writeIntEnable _ _
  · exact .writeIntEnable _ _
  · exact .writeIntEnable _ _
  · exact .of_reset rfl rfl
  · exact .of_reset rfl rfl

theorem KeepsCommands.writeTail (s : State) (r : RingId) (v : Word) : KeepsCommands s (s.writeTail r v) := by
  unfold State.writeTail
  dsimp only
  split
  · split
    · exact .of_same rfl rfl
    · exact (Calm.haltRing _ _ _ _ _).keeps
  · exact .refl s

theorem KeepsCommands.writeHead (s : State) (v : Word) : KeepsCommands s (s.writeHead v) := by
  unfold State.writeHead
  split
  · split <;> exact .of_same rfl rfl
  · exact .of_same rfl rfl

theorem KeepsCommands.writeCoalesce (s : State) (v : Word) : KeepsCommands s (s.writeCoalesce v) := by
  unfold State.writeCoalesce
  dsimp only
  split <;> exact .of_same rfl rfl

theorem KeepsCommands.writeWide (s : State) (offset : Nat) (v : BitVec 64) :
    KeepsCommands s (s.writeWide offset v) := by
  unfold State.writeWide
  split <;> exact .of_same rfl rfl

theorem KeepsCommands.modRegs (s : State) (f : Registers → Registers) : KeepsCommands s (s.modRegs f) :=
  .of_same rfl rfl

theorem KeepsCommands.writeWord (s : State) (offset : Nat) (v : Word) : KeepsCommands s (s.writeWord offset v) := by
  unfold State.writeWord
  split
  case h_1 => exact .writeControl _ _ _
  case h_8 => exact .writeHead _ _
  case h_9 => exact .writeCoalesce _ _
  case h_12 | h_13 | h_14 | h_15 | h_16 => exact .writeTail _ _ _
  case h_17 => exact .refl s
  all_goals exact .modRegs _ _

theorem KeepsCommands.writeWindow (s : State) (offset width : Nat) (v : BitVec 64) :
    KeepsCommands s (s.writeWindow offset width v) := by
  unfold State.writeWindow
  split
  · exact .writeWide _ _ _
  · split
    · exact .writeWord _ _ _
    · exact .refl s

/-! ### Fetches and reads -/

/-- When a fetch may begin (R7). -/
theorem State.fetchAllowed_iff (s : State) :
    s.fetchAllowed = true ↔ s.link.device = .online ∧ s.intake.table.length < 32 ∧ s.cpl.backlog.length < 24 ∧
      s.intake.fetch = none := by
  simp [State.fetchAllowed, and_assoc]

theorem State.pickRing_table {s t : State} {r : RingId} (h : s.pickRing = some (r, t)) :
    t.intake.table = s.intake.table ∧ t.cpl = s.cpl := by
  unfold State.pickRing at h
  split at h
  · cases h; exact ⟨rfl, rfl⟩
  · split at h
    · cases h; exact ⟨rfl, rfl⟩
    · split at h <;> cases h
      exact ⟨rfl, rfl⟩

/-- FETCH_BEGIN is the one command that reserves an entry, and it does so below 32 alone (R7). -/
theorem KeepsCommands.fetchBegin (s : State) : ∃ t, exec .fetchBegin s = .next t ∧ KeepsCommands s t := by
  refine ⟨_, rfl, ?_⟩
  split
  · next ha =>
    split
    · next r t hp =>
      obtain ⟨ht, hc⟩ := State.pickRing_table hp
      have hlt : s.intake.table.length < 32 := (s.fetchAllowed_iff.1 ha).2.1
      exact ⟨by simp [State.beginFetch, ht]; omega, by simp [State.beginFetch, hc]⟩
    · exact .refl s
  · exact .refl s

theorem KeepsCommands.advanceTo (s : State) (t : Time) : KeepsCommands s (s.advanceTo t) := .of_same rfl rfl

theorem KeepsCommands.endRead (s : State) (k : Nat) : KeepsCommands s (s.endRead k) := .of_same rfl rfl

theorem KeepsCommands.freeEntry (s : State) (id : Nat) : KeepsCommands s (s.freeEntry id) :=
  .of_le (List.length_filter_le _ _) (Nat.le_refl _)

theorem KeepsCommands.dispatchRecord (s : State) (f : Fetch) (record : List Byte) :
    KeepsCommands s (s.dispatchRecord f record) := by
  unfold State.dispatchRecord
  split
  · exact (Calm.complete _ _ _ _ _ _).keeps
  · exact .of_same rfl rfl

theorem KeepsCommands.fetchData (s : State) (f : Fetch) (record : List Byte) :
    KeepsCommands s (s.fetchData f record) := by
  unfold State.fetchData
  split
  · have htaken : KeepsCommands s (s.takeRecord f record) := .of_le (by simp [State.takeRecord]) (Nat.le_refl _)
    exact htaken.trans (.dispatchRecord _ _ _)
  · exact .trans (.freeEntry _ _) (.of_same rfl rfl)

theorem KeepsCommands.failLoad (s : State) (c : CtxId) (load : Nat) (st : Status) (w0 w1 w2 : Word) :
    KeepsCommands s (s.failLoad c load st w0 w1 w2) :=
  (Calm.complete _ _ _ _ _ _).keeps_after rfl rfl

theorem KeepsCommands.loadData (s : State) (c : CtxId) (load : Nat) (data : List Byte) :
    KeepsCommands s (s.loadData c load data) := by
  unfold State.loadData
  dsimp only
  split
  · exact .failLoad _ _ _ _ _ _ _
  · split
    · exact (Calm.complete _ _ _ _ _ _).keeps_after rfl rfl
    · exact .failLoad _ _ _ _ _ _ _

theorem KeepsCommands.fetchFails (s : State) (f : Fetch) (cause : Nat) : KeepsCommands s (s.fetchFails f cause) := by
  have hfreed : KeepsCommands s (s.freeEntry f.entry).endFetch := .trans (.freeEntry _ _) (.of_same rfl rfl)
  unfold State.fetchFails
  dsimp only
  split
  · exact hfreed.trans (Calm.haltRing _ _ _ _ _).keeps
  · exact hfreed

theorem KeepsCommands.readFails (s : State) (k : Nat) (r : OutstandingRead) (cause : Nat) :
    KeepsCommands s (s.readFails k r cause) := by
  unfold State.readFails
  dsimp only
  split
  · split
    · split
      · exact .trans (.endRead s k) (.fetchFails _ _ _)
      · exact .endRead s k
    · split
      · exact .trans (.endRead s k) (.failLoad _ _ _ _ _ _ _)
      · exact .endRead s k
  · exact .endRead s k

/-! ### Owners -/

theorem KeepsCommands.finishReturn (s : State) (c : CtxId) (entry : Nat) (a : Answer) :
    KeepsCommands s (s.finishReturn c entry a) :=
  ((Calm.cancelUpdates _ c).trans (.handIn _ _)).keeps_after rfl rfl

theorem KeepsCommands.setOutput (s : State) (e : Nat) (c : CtxId) (n : Fin 2) (kind : Byte) (code : Half) :
    KeepsCommands s (s.setOutput e c n kind code) := by
  unfold State.setOutput
  dsimp only
  split <;> exact (Calm.handIn _ _).keeps_after rfl rfl

theorem KeepsCommands.setChannel (s : State) (p : ChannelParams) : KeepsCommands s (s.setChannel p) := by
  unfold State.setChannel
  dsimp only
  split <;> exact .of_same rfl rfl

theorem State.giveUpPlace_same (s : State) (c : CtxId) :
    s.giveUpPlace c = { s with cpl := { s.cpl with claimants := (s.giveUpPlace c).cpl.claimants } } := by
  unfold State.giveUpPlace
  split <;> rfl

theorem KeepsCommands.abortActive (s : State) (c : CtxId) (entry : Nat) :
    KeepsCommands s (s.abortActive c entry) := by
  unfold State.abortActive
  split
  · exact .of_same rfl rfl
  · refine ((Calm.takeBackGrant _ c).trans (.settleCtx _ c)).keeps_after ?_ ?_ <;>
      rw [State.giveUpPlace_same] <;> rfl

theorem KeepsCommands.abortLoad (s : State) (c : CtxId) (entry : Nat) : KeepsCommands s (s.abortLoad c entry) := by
  unfold State.abortLoad
  dsimp only
  split <;> exact (Calm.handIn _ _).keeps_after rfl rfl

theorem KeepsCommands.completeCalibration (s : State) (st : Status) (w0 w1 w2 : Word) :
    KeepsCommands s (s.completeCalibration st w0 w1 w2) := by
  unfold State.completeCalibration
  split
  · exact (Calm.complete _ _ _ _ _ _).keeps
  · exact .refl s

theorem KeepsCommands.entryMeasured (s : State) (k : Fin 16) (low high : Half) :
    KeepsCommands s (s.entryMeasured k low high) := by
  have harb (f : Conversion → Conversion) : KeepsCommands s (s.freeConverter.modConv f).arbitrate :=
    (Calm.arbitrate _).keeps_after rfl rfl
  unfold State.entryMeasured
  dsimp only
  split
  · exact (harb _).trans (.completeCalibration _ _ _ _ _)
  · split
    · exact .of_same rfl rfl
    · split
      · exact harb _
      · exact (harb _).trans (.completeCalibration _ _ _ _ _)

/-! ### The Capture Engine -/

theorem KeepsCommands.sendFrame (s : State) (c : CtxId) (b : Buffer) (staging : Bool) :
    KeepsCommands s (s.sendFrame c b staging) := by
  unfold State.sendFrame
  dsimp only
  split
  · exact .of_same rfl rfl
  · split
    · exact .of_same rfl rfl
    · exact .refl s

theorem KeepsCommands.writeOldest (s : State) (c : CtxId) (staging : Bool) :
    KeepsCommands s (s.writeOldest c staging) := by
  unfold State.writeOldest
  dsimp only
  split
  · exact (Calm.settleCtx _ _).keeps
  · split
    · split
      · exact .refl s
      · split
        · exact (Calm.settleCtx _ _).keeps_after rfl rfl
        · exact .sendFrame _ _ _ _
    · split
      · exact (Calm.settleCtx _ _).keeps
      · exact .sendFrame _ _ _ _

/-! ### Runs and lines -/

theorem Calm.handEdge (s : State) (l : LineId) (e : Edge) (order : List EdgeTaker) :
    Calm s (s.handEdge l e order) := by
  unfold State.handEdge
  split
  · exact .refl s
  · exact .foldl (fun t x => .takeEdge l e t x) _ _

/-! ### Every command -/

/-- FETCH_RETURN frees an entry, or answers a command, at the most. -/
theorem KeepsCommands.fetchReturn (record : List Byte) (s : State) :
    ∃ t, exec (.fetchReturn record) s = .next t ∧ KeepsCommands s t := by
  refine ⟨_, rfl, ?_⟩
  split
  · next k _ =>
    split
    · split
      · split
        · exact .trans (.endRead s k) (.fetchData _ _ _)
        · exact .endRead s k
      · exact .endRead s k
    · exact .refl s
  · exact .refl s

theorem KeepsCommands.sequenceReadReturn (k : Nat) (data : List Byte) (s : State) :
    ∃ t, exec (.sequenceReadReturn k data) s = .next t ∧ KeepsCommands s t := by
  refine ⟨_, rfl, ?_⟩
  split
  · split
    · split
      · split
        · exact .trans (.endRead s k) (.loadData _ _ _ _)
        · exact .endRead s k
      · exact .refl s
    · exact .refl s
  · exact .refl s

theorem KeepsCommands.abort (src : RingId) (event : CtxEvent) (s : State) :
    ∃ t, exec (.abort src event) s = .next t ∧ KeepsCommands s t := by
  refine ⟨_, rfl, .ownerTakes fun e t => ?_⟩
  split
  case h_1 | h_2 | h_3 => exact .trans (.abortActive t event.ctx e) (Calm.readBy _ _ _).keeps
  case h_4 => exact .abortLoad _ _ _
  case h_5 =>
    split
    · exact (Calm.complete _ _ _ _ _ _).keeps
    · exact (Calm.settleCtx _ _).keeps_after rfl rfl
  all_goals exact (Calm.complete _ _ _ _ _ _).keeps

theorem KeepsCommands.pulse (src : RingId) (event : CtxEvent) (s : State) :
    ∃ t, exec (.pulse src event) s = .next t ∧ KeepsCommands s t := by
  refine ⟨_, rfl, .ownerTakes fun e t => ?_⟩
  dsimp only
  split
  · have htick : Calm t (if (t.ctx event.ctx).takesPulse then t.deliverTick event.ctx else (t, .notTaken)).1 := by
      split
      · exact .deliverTick _ _
      · exact .refl t
    exact (((htick.trans (.handIn _ _)).trans (.settleCtx _ _)).trans (.readBy _ _ _)).keeps
  · exact (Calm.complete _ _ _ _ _ _).keeps

/-- Every command leads to a next state, and keeps the command path's tables. -/
theorem exec_keepsCommands (i : Instr) (s : State) : ∃ t, exec i s = .next t ∧ KeepsCommands s t := by
  cases i
  case powerOn | linkReset => exact ⟨_, rfl, .of_reset rfl rfl⟩
  case enable | softReset => exact ⟨_, rfl, .hostAccess (.writeControl _ _ _)⟩
  case intEnable => exact ⟨_, rfl, .hostAccess (.writeIntEnable _ _)⟩
  case submitTail => exact ⟨_, rfl, .hostAccess (.writeTail _ _ _)⟩
  case cplHead => exact ⟨_, rfl, .hostAccess (.writeHead _ _)⟩
  case intCoalesce => exact ⟨_, rfl, .hostAccess (.writeCoalesce _ _)⟩
  case registerWrite => exact ⟨_, rfl, .hostAccess (.writeWindow _ _ _ _)⟩
  case intCauseRead | endpointConfigurationWrite => exact ⟨_, rfl, .hostAccess (.of_same rfl rfl)⟩
  case fetchBegin => exact KeepsCommands.fetchBegin s
  case fetchReturn => exact KeepsCommands.fetchReturn _ s
  case sequenceReadReturn => exact KeepsCommands.sequenceReadReturn _ _ s
  case abort => exact KeepsCommands.abort _ _ s
  case pulse => exact KeepsCommands.pulse _ _ s
  case report => exact ⟨_, rfl, .ownerTakes fun e t => .of_same rfl rfl⟩
  all_goals refine ⟨_, rfl, ?_⟩
  -- Owners: a refusal is handed in, and so is what follows a command that is done.
  case createRing | deleteRing | rearmLimit | defineContext | postBuffer | setLines | setCounter =>
    refine .ownerTakes fun e t => ?_
    split
    · exact (Calm.handIn _ _).keeps
    · exact (Calm.handIn _ _).keeps_after rfl rfl
  case loadSequence =>
    refine .ownerTakes fun e t => ?_
    split
    · exact (Calm.handIn _ _).keeps
    · exact .of_same rfl rfl
  case barrier =>
    refine .ownerTakes fun e t => ?_
    split
    · exact .of_same rfl rfl
    · exact (Calm.complete _ _ _ _ _ _).keeps
  case setChannel p =>
    refine .ownerTakes fun e t => ?_
    split
    · exact (Calm.complete _ _ _ _ _ _).keeps
    · exact .trans (.setChannel t p) (Calm.complete _ _ _ _ _ _).keeps
  case setOutput =>
    refine .ownerTakes fun e t => ?_
    split
    · exact (Calm.complete _ _ _ _ _ _).keeps
    · exact .setOutput _ _ _ _ _ _
  case arm =>
    refine .ownerTakes fun e t => ?_
    split
    · exact (Calm.handIn _ _).keeps
    · dsimp only
      split
      · exact (Calm.takeTrigger _ _).keeps_after rfl rfl
      · exact .of_same rfl rfl
  case stop =>
    refine .ownerTakes fun e t => ?_
    split
    · exact (Calm.settleCtx _ _).keeps_after rfl rfl
    · exact (Calm.complete _ _ _ _ _ _).keeps
  case resetContext =>
    refine .ownerTakes fun e t => ?_
    dsimp only
    split
    case h_1 | h_2 | h_3 => exact (KeepsCommands.finishReturn _ _ _ _).after_same rfl rfl
    all_goals exact (Calm.complete _ _ _ _ _ _).keeps
  case releaseContext =>
    refine .ownerTakes fun e t => ?_
    dsimp only
    split
    case h_2 | h_3 | h_4 => exact (KeepsCommands.finishReturn _ _ _ _).after_same rfl rfl
    all_goals exact (Calm.complete _ _ _ _ _ _).keeps
  case calibrate =>
    refine .ownerTakes fun e t => ?_
    split
    · exact (Calm.complete _ _ _ _ _ _).keeps
    · split
      · exact (Calm.complete _ _ _ _ _ _).keeps
      · exact (Calm.arbitrate _).keeps_after rfl rfl
  -- Events: each has its condition, and without it changes nothing.
  case reportWriteDone =>
    split
    · exact (Calm.handIn _ _).keeps_after rfl rfl
    · exact .refl s
  case readErrorCompletion =>
    split
    · split
      · exact .readFails _ _ _ _
      · exact .refl s
    · exact .refl s
  case readTimeout =>
    split
    · exact .trans (.advanceTo s _) (.readFails _ _ _ _)
    · exact .refl s
  case calEntryMeasured =>
    split
    · exact .entryMeasured _ _ _ _
    · exact .refl s
  case calStoreDone =>
    split
    · exact (KeepsCommands.completeCalibration _ _ _ _ _).after_same rfl rfl
    · exact .refl s
  case lineEdge =>
    split
    · exact ((Calm.handEdge _ _ _ _).trans (.readBy _ _ _)).keeps_after rfl rfl
    · exact .of_same rfl rfl
  case internalTick =>
    split
    · split
      · exact .refl s
      · exact ((Calm.tickContext _ _).trans (.readBy _ _ _)).keeps_after rfl rfl
    · exact .refl s
  case slotEnd =>
    split
    · exact (((Calm.handSample _ _ _ _).trans (.endSlot _ _)).trans (.readBy _ _ _)).keeps_after rfl rfl
    · exact .refl s
  case triggerTimeout | flushTimer =>
    split
    · exact (Calm.settleCtx _ _).keeps_after rfl rfl
    · exact .refl s
  case frameWriteBegin =>
    split
    · exact .writeOldest _ _ _
    · exact .refl s
  case frameWriteEnd =>
    split
    · split
      · exact (Calm.settleCtx _ _).keeps_after rfl rfl
      · exact .of_same rfl rfl
    · exact .refl s
  case claimantHandedIn =>
    split
    · split
      · next h => exact ((Calm.joinClaim (s := s.dropClaimant) h.2 _).trans (.handIn _ _)).keeps_after rfl rfl
      · exact .refl s
    · exact .refl s
  case completionWriteDone =>
    split
    · dsimp only
      split
      · exact .of_le (Nat.le_refl _) (by simp [CompletionWriter.recordSent])
      · exact .of_same rfl rfl
    · exact .refl s
  case linkReturn | eventPulseEnd => split <;> exact .of_same rfl rfl
  case linkLoss | completionWriteBegin | firstUnsignalledDeadline | busTransferSend =>
    split
    · split <;> exact .of_same rfl rfl
    · exact .refl s

/-- Settles O57. FETCH_BEGIN alone reserves an entry, where one is free; a completion joins the backlog only where one of
its 32 is free. -/
theorem stepKeepsCommandBounds : Obligations.StepKeepsCommandBounds := by
  intro s t hs h
  unfold step at h
  split at h
  · cases h
    exact (KeepsCommands.of_same rfl rfl : KeepsCommands s s.tickTime).bounds hs
  · next i rest _ =>
    obtain ⟨u, hu, hk⟩ := exec_keepsCommands i { s with pending := rest }
    cases hu.symm.trans h
    exact (hk.after_same rfl rfl : KeepsCommands s t).bounds hs

end Sys2Proof.Machine
end

section
/-!
PROOFS. The state after power-on, table by table.
-/

namespace Sys2Proof.Machine

open Sys2Proof

-- One thread at a time: each thread of a parallel proof reserves 1 GiB of the check's memory limit.
set_option Elab.async false

/-! ### Power-on -/

@[simp] theorem State.reset_ring (r : RingId) : State.reset.ring r = Ring.absent := by
  simp [State.ring, State.reset, Intake.reset]

@[simp] theorem State.reset_chan (n : ChanId) : State.reset.chan n = Channel.reset := by
  simp [State.chan, State.reset]

@[simp] theorem State.reset_ctx (c : CtxId) : State.reset.ctx c = Ctx.reset := by
  simp [State.ctx, State.reset]

@[simp] theorem State.reset_line (l : LineId) : State.reset.line l = ⟨.input, false, none⟩ := by
  simp [State.line, State.reset, LineUnit.reset]

@[simp] theorem State.reset_counter (k : Fin 2) : State.reset.counter k = ⟨none, 0⟩ := by
  simp [State.counter, State.reset, LineUnit.reset]

@[simp] theorem State.reset_out (o : Fin 2) : State.reset.out o = Output.reset := by
  simp [State.out, State.reset]

/-- Settles O2: each table read entry by entry, and the registers as they stand. -/
theorem powerOnValues : Obligations.PowerOnValues := by
  unfold Obligations.PowerOnValues
  simp only [State.reset_ring, State.reset_chan, State.reset_ctx, State.reset_line, State.reset_counter,
    State.reset_out]
  simp [State.reset, HostLink.reset, Registers.reset, Bus.reset, Endpoint.reset, Ring.absent, Intake.reset,
    CompletionWriter.reset, Channel.reset, Ctx.reset, Run.reset, Pacing.reset, Capture.reset, Conversion.reset,
    Calibration.idle, Output.reset]

/-- Settles O60: the tables are empty, the registers at their power-on values, and no context holds anything. -/
theorem powerOnMeetsTheBounds : Obligations.PowerOnMeetsTheBounds :=
  ⟨⟨Nat.zero_le _, Nat.zero_le _⟩, ⟨Nat.zero_le _, by decide, fun _ => rfl, Nat.zero_le _⟩,
    ⟨by decide, by decide, fun c => by simp [Ctx.reset, Capture.reset]⟩⟩

end Sys2Proof.Machine
end

section
/-!
PROOFS. Reads and records that end, and what stands still while the device is not ONLINE.
-/

namespace Sys2Proof.Machine

open Sys2Proof

-- One thread at a time: each thread of a parallel proof reserves 1 GiB of the check's memory limit.
set_option Elab.async false

/-! ### A device that is not ONLINE -/

/-- No owner takes a command while the device is not ONLINE (R14, R27). -/
theorem State.ownerTakes_notOnline {s : State} (h : s.link.device ≠ .online) (r : RingId) (cmd : Command)
    (act : Nat → State → State) : s.ownerTakes r cmd act = s := by
  unfold State.ownerTakes
  split
  · rw [if_neg fun hc => h hc.1]
  · rfl

theorem HostLink.signals_iff (h : HostLink) : h.signals = true ↔ h.regs.intEnable = true ∧ h.device = .online := by
  simp [HostLink.signals]

/-- READ_ERROR_COMPLETION of an outstanding read. -/
theorem exec_readErrorCompletion {s : State} {k : Nat} {q : OutstandingRead} (hq : s.readAt k = some q)
    (hop : s.link.operating = true) : exec (.readErrorCompletion k) s = .next (s.readFails k q 1) := by
  simp only [exec, execReadErrorCompletion, hq, hop, if_true]

/-- READ_TIMEOUT of an outstanding read, 500,000 counts after its request was sent (R190). -/
theorem exec_readTimeout {s : State} {k : Nat} {q : OutstandingRead} (hq : s.readAt k = some q) :
    exec (.readTimeout k) s = .next ((s.advanceTo (q.sentAt + 500000)).readFails k q 2) := by
  have hdue : timeAfter q.sentAt Config.readTimeoutCounts = q.sentAt + 500000 := rfl
  simp only [exec, execReadTimeout, hq, hdue]

/-- The time base brought to an instant (log 3). -/
theorem State.advanceTo_eq (s : State) (t : Time) :
    s.advanceTo t = { s with timeBase := if t.toNat ≤ s.timeBase.toNat then s.timeBase else t } := by
  simp only [State.advanceTo, timeReached, decide_eq_true_eq]

/-- FETCH_RETURN of 64 bytes, by the device state and the fetch in flight. -/
theorem exec_fetchReturn {s : State} {k : Nat} {record : List Byte} (hk : s.fetchRead = some k)
    (hlen : record.length = 64) (hop : s.link.operating = true) :
    (∀ f, s.link.device = .online → s.intake.fetch = some f →
      exec (.fetchReturn record) s = .next ((s.endRead k).fetchData f record)) ∧
    (s.link.device ≠ .online → exec (.fetchReturn record) s = .next (s.endRead k)) := by
  refine ⟨fun f hd hf => ?_, fun hd => ?_⟩
  · simp [exec, execFetchReturn, hk, hlen, hop, hd, hf]
  · simp [exec, execFetchReturn, hk, hlen, hop, hd]

/-- The data of a load that has ended already is only forgotten (R58). -/
theorem exec_sequenceReadReturn_dead {s : State} {k : Nat} {q : OutstandingRead} {c : CtxId} {load : Nat}
    {data : List Byte} (hq : s.readAt k = some q) (hkind : q.request.kind = .steps c load)
    (hlen : data.length = q.request.length) (hop : s.link.operating = true) (hlive : s.loadLive c load = false) :
    exec (.sequenceReadReturn k data) s = .next (s.endRead k) := by
  simp [exec, execSequenceReadReturn, hq, hkind, hlen, hop, hlive]

/-- COMPLETION_WRITE_DONE while the device is not ONLINE: the record has only left the link (R27). -/
theorem exec_completionWriteDone_notOnline {s : State} {first : Bool} {a : Addr} {bytes : List Byte}
    (h : s.link.device ≠ .online) (hbusy : s.link.bus.busy = true) (hlink : s.link.bus.onLink = some (.record a bytes)) :
    exec (.completionWriteDone first) s = .next s.sent := by
  simp only [exec, execCompletionWriteDone, hbusy, hlink, h, if_false, State.sent]

/-- A read that fails while the device is not ONLINE is only forgotten (R190). -/
theorem State.readFails_notOnline {s : State} (h : s.link.device ≠ .online) (k : Nat) (q : OutstandingRead)
    (cause : Nat) : s.readFails k q cause = s.endRead k := if_neg h

/-- A read that times out while the device is not ONLINE is only forgotten, at its instant (R190, log 3). -/
theorem State.readFails_late {s : State} (h : s.link.device ≠ .online) (k : Nat) (q : OutstandingRead) (due : Time) :
    (s.advanceTo due).readFails k q 2 =
      State.endRead { s with timeBase := if due.toNat ≤ s.timeBase.toNat then s.timeBase else due } k := by
  rw [State.readFails_notOnline (by simpa using h), State.advanceTo_eq]

/-- The events of the blocks change nothing while the device is not ONLINE: each looks at the device state first. -/
theorem blockEvents_notOnline {s : State} (h : s.link.device ≠ .online) :
    (∀ event, exec (.internalTick event) s = .next s) ∧ (∀ c, exec (.triggerTimeout c) s = .next s) ∧
    (∀ c, exec (.flushTimer c) s = .next s) ∧ (∀ raw order, exec (.slotEnd raw order) s = .next s) ∧
    (∀ c staging, exec (.frameWriteBegin c staging) s = .next s) ∧ exec .frameWriteEnd s = .next s ∧
    exec .claimantHandedIn s = .next s ∧ exec .completionWriteBegin s = .next s ∧ exec .fetchBegin s = .next s ∧
    exec .reportWriteDone s = .next s ∧ exec .firstUnsignalledDeadline s = .next s ∧
    (∀ low high, exec (.calEntryMeasured low high) s = .next s) ∧ exec .calStoreDone s = .next s := by
  refine ⟨fun event => ?tick, fun c => ?timeout, fun c => ?flush, fun raw order => ?slot, fun c staging => ?frame, ?sent,
    ?claim, ?write, ?fetch, ?report, ?deadline, fun low high => ?measured, ?stored⟩ <;>
    refine congrArg Host.Outcome.next ?_
  case frame => exact if_neg fun hc => h hc.1
  case fetch => exact if_neg fun hc => h (s.fetchAllowed_iff.1 hc).1
  case claim | write =>
    split
    · exact if_neg fun hc => h hc.1
    · rfl
  case deadline =>
    split
    · exact if_neg fun hc => h (s.link.signals_iff.1 hc).2
    · rfl
  case tick | timeout | flush | slot | sent | report | measured | stored =>
    split
    · contradiction
    · rfl

/-- Settles O6: an owner, and each event of a block, looks at the device state first; a read that ends looks at it before
it is passed on. -/
theorem nothingActsUnlessOnline : Obligations.NothingActsUnlessOnline := by
  intro s h
  have owner (r : RingId) (cmd : Command) (act : Nat → State → State) :
      (.next (s.ownerTakes r cmd act) : Result) = .next s := by rw [s.ownerTakes_notOnline h]
  obtain ⟨htick, htimeout, hflush, hslot, hbegin, hend, hclaim, hwrite, hfetch, hreport, hdeadline, hcal, hstore⟩ :=
    blockEvents_notOnline h
  refine ⟨fun _ _ _ _ => owner _ _ _, fun _ => owner _ _ _, fun _ => owner _ _ _, fun _ => owner _ _ _,
    fun _ => owner _ _ _, fun _ => owner _ _ _, fun _ _ _ _ => owner _ _ _, fun _ _ _ => owner _ _ _,
    fun _ _ _ => ⟨owner _ _ _, owner _ _ _, owner _ _ _, owner _ _ _, owner _ _ _, owner _ _ _⟩,
    fun _ => owner _ _ _, fun _ _ _ _ _ => owner _ _ _, fun _ _ => owner _ _ _, fun _ _ _ => owner _ _ _,
    fun _ _ _ _ _ => owner _ _ _, fun c _ => ⟨htick _, htimeout c, hflush c⟩, fun raw _ _ => hslot raw _, hbegin, hend,
    hclaim, hwrite, hfetch, hreport, hdeadline, hcal, hstore, ?_, ?_⟩
  · intro k q hq
    have hread : s.readAt k = some q := hq
    refine ⟨fun hop => ?_, ?_, fun c load data hkind hlen hop => ?_, fun record hfind hlen hop => ?_⟩
    · rw [exec_readErrorCompletion hread hop, s.readFails_notOnline h]
      rfl
    · rw [exec_readTimeout hread, State.readFails_late h]
      rfl
    · exact exec_sequenceReadReturn_dead hread hkind hlen hop (by simp [State.loadLive, h])
    · exact (exec_fetchReturn hfind hlen hop).2 h
  · exact fun first a bytes hbusy hlink => exec_completionWriteDone_notOnline h hbusy hlink

end Sys2Proof.Machine
end

section
/-!
PROOFS. The host's writes of SUBMIT_TAILn and CPL_HEAD, and the halt of a ring.
-/

namespace Sys2Proof.Machine

open Sys2Proof

-- One thread at a time: each thread of a parallel proof reserves 1 GiB of the check's memory limit.
set_option Elab.async false

/-! ### The host's writes to the rings -/

/-- What the host writes reaches the register window while the link operates. -/
theorem State.hostAccess_operating {s : State} (h : s.link.operating = true) (f : State → State) :
    s.hostAccess f = f s := if_pos h

/-- Everything the halt of a ring does: the ring is HALTED, its turn ends, and its notice joins the backlog or waits
(R4, R20, R22). -/
theorem State.haltRing_eq (s : State) (r : RingId) (n : NoticeStatus) (w0 w1 : Word) :
    s.haltRing r n w0 w1 =
      let halted : State := { s with intake := { s.intake with
        rings := s.intake.rings.set r.val { s.ring r with state := .halted }
        turnOver := s.intake.turnOver || s.intake.current == some r } }
      if s.backlogOpen then halted.pushCompletion (noticeCompletion n r (s.ring r).head w0 w1 s.timeBase)
      else halted.wait [.notice n r (s.ring r).head w0 w1] := State.handIn_notice _ _ _ _ _ _

theorem State.haltRing_open {s : State} (h : s.cpl.backlog.length < 32 ∧ s.cpl.claimants = []) (r : RingId)
    (n : NoticeStatus) (w0 w1 : Word) :
    s.haltRing r n w0 w1 = { s with
      intake := { s.intake with
        rings := s.intake.rings.set r.val { s.ring r with state := .halted }
        turnOver := s.intake.turnOver || s.intake.current == some r }
      cpl := { s.cpl with
        claimants := []
        backlog := s.cpl.backlog ++ [⟨.notice n, r, 0, 0, (s.ring r).head, w0, w1, 0, s.timeBase.setWidth 48⟩] } } := by
  rw [State.haltRing_eq, if_pos (s.backlogOpen_iff.2 h), ← h.2]
  rfl

theorem State.haltRing_closed {s : State} (h : ¬(s.cpl.backlog.length < 32 ∧ s.cpl.claimants = [])) (r : RingId)
    (n : NoticeStatus) (w0 w1 : Word) :
    s.haltRing r n w0 w1 = { s with
      intake := { s.intake with
        rings := s.intake.rings.set r.val { s.ring r with state := .halted }
        turnOver := s.intake.turnOver || s.intake.current == some r }
      cpl := { s.cpl with claimants := s.cpl.claimants ++ [.notice n r (s.ring r).head w0 w1] } } := by
  rw [State.haltRing_eq, if_neg fun ho => h (s.backlogOpen_iff.1 ho)]
  rfl

/-- A ring replaced by itself. -/
theorem State.setRing_ring (s : State) (r : RingId) : s.setRing r (s.ring r) = s := by
  simp [State.setRing, State.ring]

/-- A write of SUBMIT_TAILn is discarded unless the device is ONLINE and the ring ACTIVE (R3). -/
theorem State.writeTail_discarded {s : State} {r : RingId} (h : ¬(s.link.device = .online ∧ (s.ring r).state = .active))
    (v : Word) : s.writeTail r v = s := if_neg h

theorem State.writeTail_inRange {s : State} {r : RingId} (hd : s.link.device = .online)
    (ha : (s.ring r).state = .active) {v : Word} (hv : v.toNat < (s.ring r).size) :
    s.writeTail r v = s.setRing r { s.ring r with tail := v.toNat } := by
  simp only [State.writeTail, hd, ha, hv, and_self, if_true]

theorem State.writeTail_outOfRange {s : State} {r : RingId} (hd : s.link.device = .online)
    (ha : (s.ring r).state = .active) {v : Word} (hv : (s.ring r).size ≤ v.toNat) :
    s.writeTail r v = s.haltRing r .indexError v (word (s.ring r).size) := by
  simp only [State.writeTail, hd, ha, Nat.not_lt.2 hv, and_self, if_true, if_false]

/-- SUBMIT_TAILn reads the tail of its ring. -/
theorem State.readRegister_tail (s : State) (n : RingId) : s.readRegister (0x38 + 4 * n.val) = (s.ring n).tailWord := by
  match n with
  | 0 | 1 | 2 | 3 | 4 => rfl

/-- Settles O9, by the ring's state and the range of the value. -/
theorem submitTailByRingState : Obligations.SubmitTailByRingState := by
  intro s n value hop
  have hexec : exec (.submitTail n value) s = .next (s.writeTail n value) :=
    congrArg Host.Outcome.next (s.hostAccess_operating hop _)
  refine ⟨fun hd ha hv => ⟨?_, rfl, fun hsame => ?_⟩, fun hd ha hv => ⟨fun ho => ?_, fun hc => ?_⟩, fun hno => ?_,
    s.readRegister_tail n⟩
  · rw [hexec, State.writeTail_inRange hd ha hv]
  · rw [hexec, State.writeTail_inRange hd ha hv, hsame]
    exact congrArg Host.Outcome.next (s.setRing_ring n)
  · rw [hexec, State.writeTail_outOfRange hd ha hv, State.haltRing_open ho]
  · rw [hexec, State.writeTail_outOfRange hd ha hv, State.haltRing_closed hc]
  · rw [hexec, State.writeTail_discarded]
    rintro ⟨hd, ha⟩
    rcases hno with h | h | h
    · cases h.symm.trans ha
    · cases h.symm.trans ha
    · exact h hd

/-- Settles O10, by the device state and the range of the value. -/
theorem cplHeadGivesTheNewHead : Obligations.CplHeadGivesTheNewHead := by
  intro s value hop
  have hexec : exec (.cplHead value) s = .next (s.writeHead value) :=
    congrArg Host.Outcome.next (s.hostAccess_operating hop _)
  refine ⟨fun hd hv => ⟨?_, fun hroom => ?_⟩, fun hd hv => ?_, fun hd => ?_⟩
  · rw [hexec, State.writeHead, if_pos hd, if_pos hv]
    rfl
  · simpa [CompletionWriter.full] using hroom
  · rw [hexec, State.writeHead, if_pos hd, if_neg (Nat.not_lt.2 hv)]
  · rw [hexec, State.writeHead, if_neg hd]
    rfl

end Sys2Proof.Machine
end

section
/-!
PROOFS. The end of a fetch: its record taken, discarded, or never come.
-/

namespace Sys2Proof.Machine

open Sys2Proof

-- One thread at a time: each thread of a parallel proof reserves 1 GiB of the check's memory limit.
set_option Elab.async false

/-! ### The end of a fetch -/

/-- An entry as the record taken fills it (R8). -/
theorem PendingEntry.fill_eq (e : PendingEntry) (record : List Byte) (head : Nat) :
    e.fill record head = ⟨e.age, e.ring, true, wordAt record 4, byteAt record 0, byteAt record 1, head⟩ := rfl

/-- The number of an entry found by its number. -/
theorem State.entry?_age {s : State} {id : Nat} {e : PendingEntry} (h : s.entry? id = some e) : e.age = id := by
  simpa using List.find?_some h

/-- An entry that has been filled is found by its number, with what the record gave it. -/
theorem State.entry?_takeRecord {s : State} {f : Fetch} {e : PendingEntry} (h : s.entry? f.entry = some e)
    (record : List Byte) :
    (s.takeRecord f record).entry? f.entry =
      some (e.fill record (((s.ring f.ring).head + 1) % (s.ring f.ring).size)) := by
  have hage := State.entry?_age h
  have hsame (head : Nat) : ((fun x : PendingEntry => x.age == f.entry) ∘ fun x =>
      if x.age = f.entry then x.fill record head else x) = fun x => x.age == f.entry := by
    funext x
    simp only [Function.comp_apply]
    split <;> rfl
  have hfind : s.intake.table.find? (fun x => x.age == f.entry) = some e := h
  simp only [State.entry?, State.takeRecord, State.setRing, List.find?_map, hsame, hfind, Option.map_some, hage, if_true,
    Ring.advanced]

/-- Everything the taking of a record does (R8, R11). -/
theorem State.takeRecord_eq (s : State) (f : Fetch) (record : List Byte) :
    s.takeRecord f record =
      let head := ((s.ring f.ring).head + 1) % (s.ring f.ring).size
      let ring : Ring := { s.ring f.ring with head := head }
      let emptied : Bool := s.intake.current == some f.ring && ring.unfetched == 0
      { s with intake := { s.intake with
        rings := s.intake.rings.set f.ring.val ring
        fetch := none
        table := s.intake.table.map fun p =>
          if p.age = f.entry then ⟨p.age, p.ring, true, wordAt record 4, byteAt record 0, byteAt record 1, head⟩ else p
        taken := if emptied then ring.weight else s.intake.taken
        turnOver := if emptied then true else s.intake.turnOver } } := by
  simp only [State.takeRecord, Ring.advanced, PendingEntry.fill_eq, Bool.and_eq_true, beq_iff_eq]
  rfl

theorem State.fetchData_active {s : State} {f : Fetch} (h : (s.ring f.ring).state = .active) (record : List Byte) :
    s.fetchData f record = (s.takeRecord f record).dispatchRecord f record := if_pos h

theorem State.fetchData_halted {s : State} {f : Fetch} (h : (s.ring f.ring).state = .halted) (record : List Byte) :
    s.fetchData f record = (s.freeEntry f.entry).endFetch := if_neg (by simp [h])

/-- A record that passes the common checks joins the dispatched commands (R12, R14). -/
theorem State.dispatchRecord_command {s : State} {f : Fetch} {record : List Byte} {cmd : Command}
    (h : commonCheck f.ring s.link.regs.dmaLimit record = .inr cmd) :
    s.dispatchRecord f record =
      { s with intake := { s.intake with dispatched := s.intake.dispatched ++ [⟨f.entry, f.ring, cmd⟩] } } := by
  simp only [State.dispatchRecord, h]

/-- A record that fails a common check is answered with its status (R12, R16). -/
theorem State.dispatchRecord_refused {s : State} {f : Fetch} {record : List Byte} {st : Status} {p : PendingEntry}
    (h : commonCheck f.ring s.link.regs.dmaLimit record = .inl st) (hp : s.entry? f.entry = some p) :
    Answered s (s.dispatchRecord f record) p (answer st 0 0 0) ∧ (s.dispatchRecord f record).apart = s.apart := by
  have hage := State.entry?_age hp
  have heq : s.dispatchRecord f record = s.handIn [.command p.age (answer st 0 0 0)] := by
    simp only [State.dispatchRecord, h, State.complete, hage]
  rw [heq]
  exact State.handIn_answered (hage.symm ▸ hp) _

/-- Settles O17: the record of an ACTIVE ring is taken and then dispatched or refused; that of a HALTED one is not. -/
theorem fetchReturnTakesTheRecord : Obligations.FetchReturnTakesTheRecord := by
  refine ⟨?_, fun s record k f hlen hd hop hk hf hh => ?_⟩
  · intro s record k f e hlen hd hop hk hf he ha head ring filled emptied taken
    have htaken : (s.endRead k).takeRecord f record = taken := State.takeRecord_eq _ _ _
    have hexec : exec (.fetchReturn record) s = .next (taken.dispatchRecord f record) := by
      rw [(exec_fetchReturn hk hlen hop).1 f hd hf, State.fetchData_active (by simpa using ha), htaken]
    have hfilled : taken.entry? f.entry = some filled := by
      rw [← htaken]
      exact State.entry?_takeRecord (s := s.endRead k) he record
    refine ⟨fun cmd hcmd => ?_, fun st hst => ⟨_, hexec, State.dispatchRecord_refused hst hfilled⟩⟩
    rw [hexec, State.dispatchRecord_command (s := taken) hcmd]
  · rw [(exec_fetchReturn hk hlen hop).1 f hd hf, State.fetchData_halted (by simpa using hh)]
    rfl

/-! ### A fetch that fails -/

/-- A fetch read that fails while the device is ONLINE frees the entry, and an ACTIVE ring halts (R9). -/
theorem State.readFails_fetch {s : State} {q : OutstandingRead} {f : Fetch} (hkind : q.request.kind = .fetch)
    (hd : s.link.device = .online) (hf : s.intake.fetch = some f) (k cause : Nat) :
    s.readFails k q cause =
      if (s.ring f.ring).state = .active then
        (((s.endRead k).freeEntry f.entry).endFetch).haltRing f.ring .fetchError (word (s.ring f.ring).head) (word cause)
      else ((s.endRead k).freeEntry f.entry).endFetch := by
  simp only [State.readFails, hd, hkind, if_true, hf, State.fetchFails]
  rfl

/-- Settles O18, by the ring's state and the room in the backlog; the two commands differ in the time base and the cause. -/
theorem failedFetchHaltsItsRing : Obligations.FailedFetchHaltsItsRing := by
  intro s k q f timeout hq hkind hd hop hf due now cause r freed halted goesTo
  have htimeout : exec (.readTimeout k) s = .next ((s.advanceTo due).readFails k q 2) := exec_readTimeout hq
  clear_value due
  have hexec : exec (if timeout then .readTimeout k else .readErrorCompletion k) s =
      .next (State.readFails { s with timeBase := now } k q (if timeout then 2 else 1)) := by
    cases timeout
    · exact exec_readErrorCompletion hq hop
    · rw [State.advanceTo_eq, ← ite_not] at htimeout
      simpa [now] using htimeout
  have hcause : word (if timeout then 2 else 1) = cause := by cases timeout <;> rfl
  rw [State.readFails_fetch (s := { s with timeBase := now }) hkind hd hf, hcause] at hexec
  refine ⟨fun ha ho => ?_, fun ha hc => ?_, fun hn => ?_⟩ <;> refine hexec.trans (congrArg Host.Outcome.next ?_)
  · exact (if_pos ha).trans (State.haltRing_open (s := freed) ho _ _ _ _)
  · exact (if_pos ha).trans (State.haltRing_closed (s := freed) hc _ _ _ _)
  · exact if_neg hn

end Sys2Proof.Machine
end

section
/-!
PROOFS. The Intake's own commands: CREATE_RING, DELETE_RING, BARRIER and REPORT.
-/

namespace Sys2Proof.Machine

open Sys2Proof

-- One thread at a time: each thread of a parallel proof reserves 1 GiB of the check's memory limit.
set_option Elab.async false

/-! ### The Intake's own commands -/

/-- The sizes a work ring may have (R5). -/
theorem isPowerOfTwoIn_ringSize (n : Nat) :
    isPowerOfTwoIn 4 1024 n = true ↔ n ∈ [4, 8, 16, 32, 64, 128, 256, 512, 1024] := by
  constructor
  · intro h
    simp only [isPowerOfTwoIn, Bool.and_eq_true, decide_eq_true_eq, List.any_eq_true, List.mem_range, beq_iff_eq] at h
    obtain ⟨⟨hlo, hhi⟩, k, hk, rfl⟩ := h
    interval_cases k <;> simp_all
  · intro h
    simp only [List.mem_cons, List.not_mem_nil, or_false] at h
    rcases h with rfl | rfl | rfl | rfl | rfl | rfl | rfl | rfl | rfl <;> decide

/-- Settles O20: the checks of R5 are made in the order of the statement, and only their passing changes the ring. -/
theorem createRingByItsChecks : Obligations.CreateRingByItsChecks := by
  intro s ring weight size base p h u r st
  have hfault : u.createFault ring weight size = if st = .ok then none else some st := by
    have hsize : (!isPowerOfTwoIn 4 1024 size.toNat) = true ↔
        size.toNat ∉ [4, 8, 16, 32, 64, 128, 256, 512, 1024] := by
      rw [← isPowerOfTwoIn_ringSize, Bool.not_eq_true', Bool.not_eq_true]
    simp only [State.createFault, hsize, st]
    split_ifs <;> trivial
  have hexec : exec (.createRing ring weight size base) s = .next (match u.createFault ring weight size with
      | some st => u.complete p.age st 0 0 0
      | none => (u.setRing r ⟨.active, base, size.toNat, weight.toNat, 0, 0⟩).complete p.age .ok 0 0 0) :=
    congrArg Host.Outcome.next (h.ownerTakes _)
  by_cases hok : st = .ok
  · rw [hfault, if_pos hok] at hexec
    rw [if_pos hok, hok]
    exact h.completes hexec rfl rfl rfl rfl
  · rw [hfault, if_neg hok] at hexec
    rw [if_neg hok]
    exact h.completes hexec rfl rfl rfl rfl

/-- Settles O21: the checks of R6 in order; a ring with no entry pending goes to ABSENT. -/
theorem deleteRingByItsChecks : Obligations.DeleteRingByItsChecks := by
  intro s ring p h u r busy gone
  have hexec : exec (.deleteRing ring) s = .next (match u.deleteFault ring with
      | some st => u.complete p.age st 0 0 0
      | none => ((u.setRing r Ring.absent).endTurnOf r).complete p.age .ok 0 0 0) :=
    congrArg Host.Outcome.next (h.ownerTakes _)
  have hbusy : (u.intake.table.any fun e => e.ring == r) = true ↔ busy := by simp [u, busy]
  have hring : u.ring r = s.ring r := rfl
  have refused {st : Status} (hf : u.deleteFault ring = some st) :
      Completes s (.deleteRing ring) p (answer st 0 0 0) u := by
    rw [hf] at hexec
    exact h.completes hexec rfl rfl rfl rfl
  refine ⟨fun hbig => refused (if_pos hbig), fun hsmall => ⟨fun hbad => refused ?_, fun hgood => ⟨fun hb => refused ?_,
    fun hb => ?_⟩⟩⟩
  · rw [State.deleteFault, if_neg (Nat.not_lt.2 hsmall), hring, if_pos hbad]
  · rw [State.deleteFault, if_neg (Nat.not_lt.2 hsmall), hring, if_neg hgood, if_pos (hbusy.2 hb)]
  · rw [State.deleteFault, if_neg (Nat.not_lt.2 hsmall), hring, if_neg hgood, if_neg (mt hbusy.1 hb)] at hexec
    exact h.completes hexec rfl rfl rfl rfl

/-! ### BARRIER -/

theorem State.earlierPending_iff (s : State) (r : RingId) (entry : Nat) :
    s.earlierPending r entry = true ↔ ∃ e ∈ s.intake.table, e.ring = r ∧ e.age < entry := by
  simp [State.earlierPending]

/-- An entry found by its number stands in the table. -/
theorem State.entry?_mem {s : State} {id : Nat} {e : PendingEntry} (h : s.entry? id = some e) :
    e ∈ s.intake.table := List.mem_of_find?_eq_some h

/-- A BARRIER that waits alone, with no earlier entry of its ring but `e`, is ready once `e` has been answered (R23). -/
theorem barriersBehind_last {s : State} {e b : PendingEntry} (hb : s.entry? b.age = some b) (hring : e.ring = b.ring)
    (hage : e.age < b.age) (hwait : s.intake.barriers = [b.age])
    (hlast : ∀ x ∈ s.intake.table, x.ring = b.ring → x.age < b.age → x.age = e.age) :
    barriersBehind s e = [b.age] := by
  rw [barriersBehind, hwait]
  refine List.filter_eq_self.2 fun n hn => ?_
  obtain rfl : n = b.age := by simpa using hn
  simp only [Bool.and_eq_true, List.any_eq_true, List.all_eq_true, Bool.or_eq_true, beq_iff_eq, bne_iff_ne,
    decide_eq_true_eq]
  refine ⟨⟨b, State.entry?_mem hb, ⟨rfl, hring.symm⟩, by omega⟩, fun x hx => ?_⟩
  by_cases hx' : x.ring = b.ring ∧ x.age < b.age
  · exact .inr (hlast x hx hx'.1 hx'.2)
  · rw [hring]
    by_cases hr : x.ring = b.ring
    · exact .inl (.inr (Nat.not_lt.1 fun hlt => hx' ⟨hr, hlt⟩))
    · exact .inl (.inl hr)

/-- With no BARRIER waiting none is behind a command. -/
theorem barriersBehind_none {s : State} (h : s.intake.barriers = []) (p : PendingEntry) : barriersBehind s p = [] := by
  simp [barriersBehind, h]

/-- Settles O22: whether an earlier entry of the ring stands in the table; and the join of the last of them, whose one
follow-up is the BARRIER. -/
theorem barrierFollowsEarlierCommands : Obligations.BarrierFollowsEarlierCommands := by
  refine ⟨?_, ?_⟩
  · intro s src p h u earlier
    have hexec : exec (.barrier src) s = .next (if u.earlierPending src p.age then
        { u with intake := { u.intake with barriers := u.intake.barriers ++ [p.age] } }
        else u.complete p.age .ok 0 0 0) := congrArg Host.Outcome.next (h.ownerTakes _)
    have hiff : u.earlierPending src p.age = true ↔ earlier := u.earlierPending_iff src p.age
    refine ⟨fun hn => ?_, fun hy => ?_⟩
    · rw [if_neg (mt hiff.1 hn)] at hexec
      exact h.completes hexec rfl rfl rfl rfl
    · rw [hexec, if_pos (hiff.2 hy)]
      rfl
  · intro s e b a he hb hring hage hwait hlast hroom hnobody
    have hbehind := barriersBehind_last hb hring hage hwait hlast
    have hopen : s.backlogOpen = true := s.backlogOpen_iff.2 ⟨by omega, hnobody⟩
    let t := answeredBy s e a
    have hclaims : barrierClaims s e = [.command b.age (answer .ok 0 0 0)] := by simp [barrierClaims, hbehind]
    have htb : t.entry? b.age = some b := State.entry_answeredBy hb (by omega) a
    have htwait : t.intake.barriers = [] := by simp [t, answeredBy, hbehind, hwait]
    have htopen : t.backlogOpen = true := t.backlogOpen_iff.2 ⟨by simp [t, answeredBy]; omega, hnobody⟩
    have hfirst : s.handIn [.command e.age a] = State.handInUpTo 95 (barrierClaims s e) t := by
      rw [show s.handIn [.command e.age a] = _ from State.handInUpTo_open 95 _ _ hopen, State.joinClaim,
        State.joinCommand_eq he]
      rfl
    have hsecond : s.handIn [.command e.age a] = answeredBy t b (answer .ok 0 0 0) := by
      rw [hfirst, hclaims, State.handInUpTo_open 94 _ _ htopen, State.joinClaim, State.joinCommand_eq htb, barrierClaims,
        barriersBehind_none htwait]
      exact State.handInUpTo_nil _ _
    refine ⟨_, rfl, ?_, ?_, ?_⟩ <;> rw [hsecond]
    · simp [answeredBy, t]
    · simp [answeredBy, htwait]
    · rfl

/-! ### REPORT -/

theorem Ring.reportBytes_length (r : Ring) : r.reportBytes.length = 8 := by simp [Ring.reportBytes, half]

theorem Ctx.reportBytes_length (x : Ctx) : x.reportBytes.length = 48 := by simp [Ctx.reportBytes, half, zeros]

/-- The snapshot has 512 bytes (R202). -/
theorem State.reportBytes_length (s : State) : s.reportBytes.length = 512 := by
  simp [State.reportBytes, half, zeros, length_flatMap_rows Ring.reportBytes_length,
    length_flatMap_rows Ctx.reportBytes_length]

/-- REPORT_WRITE_DONE: the write on the link has been sent, and its REPORT is answered (R25). -/
theorem exec_reportWriteDone {s : State} {w : ReportWrite} (hd : s.link.device = .online)
    (hbusy : s.link.bus.busy = true) (hw : s.link.bus.onLink = some (.report w)) :
    exec .reportWriteDone s =
      .next (s.sent.handIn [.command w.entry ⟨.command .ok, 0, 0, 0, some w.takenAt⟩]) := by
  simp only [exec, execReportWriteDone, Bus.sending, hd, hbusy, hw, if_true]

/-- Settles O23: the snapshot is taken as REPORT is, and its time answers it when its write has been sent. -/
theorem reportTakesAndSendsASnapshot : Obligations.ReportTakesAndSendsASnapshot := by
  refine ⟨fun s address p h => ⟨State.reportBytes_length _, congrArg Host.Outcome.next (h.ownerTakes _)⟩, ?_⟩
  intro s w p hd hbusy hw hp
  have hage := State.entry?_age hp
  have hsent : s.sent.entry? p.age = some p := by rw [hage]; exact hp
  obtain ⟨hans, hapart⟩ := State.handIn_answered hsent ⟨.command .ok, 0, 0, 0, some w.takenAt⟩
  exact ⟨_, by rw [exec_reportWriteDone hd hbusy hw, hage], hans, hapart⟩

end Sys2Proof.Machine
end

section
/-!
PROOFS. The intake arbiter and the beginning of a fetch.
-/

namespace Sys2Proof.Machine

open Sys2Proof

-- One thread at a time: each thread of a parallel proof reserves 1 GiB of the check's memory limit.
set_option Elab.async false

/-! ### The intake arbiter -/

theorem Ring.waiting_iff (r : Ring) : r.waiting = true ↔ r.state = .active ∧ r.unfetched ≠ 0 := by
  simp [Ring.waiting]

/-- The ring whose turn goes on (R11). -/
theorem State.turnGoesOn_iff (s : State) (r : RingId) :
    s.turnGoesOn = some r ↔ s.intake.current = some r ∧ ((s.ring r).state = .active ∧ (s.ring r).unfetched ≠ 0) ∧
      s.intake.taken < (s.ring r).weight ∧ s.intake.turnOver = false := by
  unfold State.turnGoesOn
  cases hc : s.intake.current with
  | none => simp
  | some c =>
    simp only [Ring.waiting_iff, Bool.not_eq_true', Option.some.injEq]
    constructor
    · intro h
      split at h
      · next hg =>
        cases h
        exact ⟨rfl, hg⟩
      · cases h
    · rintro ⟨rfl, hg⟩
      exact if_pos hg

/-- The work rings in the arbiter's order: from the one after the current ring, wrapping from 4 to 1 (R10). -/
theorem ringsFrom_eq (current : Option RingId) :
    ringsFrom current = (List.range 4).map fun k => Fin.ofNat 5 (((current.map Fin.val).getD 0 + k) % 4 + 1) := by
  cases current with
  | none => rfl
  | some c => fin_cases c <;> rfl

/-- The first ring that waits in an order of four. -/
theorem State.find_waiting {s : State} {after : Nat → RingId} {k : Nat} (hk : k < 4)
    (hwaits : (s.ring (after k)).waiting = true) (hbefore : ∀ j < k, ¬(s.ring (after j)).waiting = true) :
    ((List.range 4).map after).find? (fun r => (s.ring r).waiting) = some (after k) := by
  rw [List.find?_map, List.find?_range_eq_some.2 ⟨hwaits, by simpa using hk, fun j hj => by simpa using hbefore j hj⟩]
  rfl

/-- FETCH_BEGIN from the ring the arbiter picks. -/
theorem exec_fetchBegin {s t : State} {r : RingId} (ha : s.fetchAllowed = true) (hp : s.pickRing = some (r, t)) :
    exec .fetchBegin s = .next (t.beginFetch r) := by
  simp only [exec, execFetchBegin, ha, hp, if_true]

/-- Settles O14, in the arbiter's own order: the admin ring, the current ring, the next one that waits. -/
theorem fetchBeginServesTheArbitersRing : Obligations.FetchBeginServesTheArbitersRing := by
  intro s allowed waits begun goesOn after
  have hallowed : s.fetchAllowed = true ↔ allowed := s.fetchAllowed_iff
  have hwaits (r : RingId) : (s.ring r).waiting = true ↔ waits r := (s.ring r).waiting_iff
  have hgoes (r : RingId) : s.turnGoesOn = some r ↔ goesOn r := s.turnGoesOn_iff r
  have hafter : ringsFrom s.intake.current = (List.range 4).map after := by
    rw [ringsFrom_eq]
    simp only [after]
    cases s.intake.current <;> rfl
  have hnone (h : ∀ r, ¬goesOn r) : s.turnGoesOn = none :=
    Option.eq_none_iff_forall_ne_some.2 fun r hr => h r ((hgoes r).1 hr)
  refine ⟨fun ha h0 => ?_, fun ha h0 r hr => ?_, fun ha h0 hr k hk hwk hbefore => ?_, fun ha hno => ?_, fun hna => ?_⟩
  · exact exec_fetchBegin (hallowed.2 ha) (if_pos ((hwaits 0).2 h0))
  · have hpick : s.pickRing = some (r, { s with intake := { s.intake with taken := s.intake.taken + 1 } }) := by
      rw [State.pickRing, if_neg (mt (hwaits 0).1 h0), (hgoes r).2 hr]
    rw [exec_fetchBegin (hallowed.2 ha) hpick]
    obtain ⟨hcur, -, -, hover⟩ := hr
    have hbegun : begun r (some r) (s.intake.taken + 1) false =
        begun r s.intake.current (s.intake.taken + 1) s.intake.turnOver := by rw [hcur, hover]
    rw [hbegun]
    rfl
  · have hfind := State.find_waiting (after := after) hk ((hwaits _).2 hwk) fun j hj => mt (hwaits _).1 (hbefore j hj)
    refine exec_fetchBegin (hallowed.2 ha) (t := { s with intake := { s.intake with
      current := some (after k), taken := 1, turnOver := false } }) ?_
    rw [State.pickRing, if_neg (mt (hwaits 0).1 h0), hnone hr, hafter, hfind]
  · have hpick : s.pickRing = none := by
      have hfind : (ringsFrom s.intake.current).find? (fun r => (s.ring r).waiting) = none :=
        List.find?_eq_none.2 fun r _ => mt (hwaits r).1 (hno r)
      rw [State.pickRing, if_neg (mt (hwaits 0).1 (hno 0)), hnone fun r hr => hno r hr.2.1, hfind]
    simp only [exec, execFetchBegin, hpick, ite_self]
  · exact congrArg Host.Outcome.next (if_neg (mt hallowed.1 hna))

end Sys2Proof.Machine
end

section
/-!
PROOFS. The opcodes, and the common checks on a record.
-/

namespace Sys2Proof

-- One thread at a time: each thread of a parallel proof reserves 1 GiB of the check's memory limit.
set_option Elab.async false

/-! ### Opcodes -/

/-- An opcode byte names the opcode whose code it is. -/
theorem Opcode.ofByte_code (o : Opcode) : Opcode.ofByte o.code = some o := by cases o <;> rfl

theorem Opcode.mem_all (o : Opcode) : o ∈ Opcode.all := by cases o <;> decide

/-- Two opcodes have different codes. -/
theorem Opcode.code_injective {o o' : Opcode} (h : o.code = o'.code) : o = o' :=
  Option.some.inj (by rw [← Opcode.ofByte_code, h, Opcode.ofByte_code])

/-- A byte names an opcode exactly if it is the code of one. -/
theorem Opcode.ofByte_none {b : Byte} (h : ∀ o : Opcode, o.code ≠ b) : Opcode.ofByte b = none :=
  List.find?_eq_none.2 fun o _ => by simpa using h o

/-- The fields lie in the parameter area (R197). -/
theorem Opcode.fields_bounds (o : Opcode) : ∀ f ∈ o.fields, 8 ≤ f.1 := by cases o <;> decide

/-- The bytes with assigned bits lie in the parameter area (R197). -/
theorem Opcode.flagBits_bounds (o : Opcode) : ∀ f ∈ o.flagBits, 8 ≤ f.1 := by cases o <;> decide

/-- Every reserved bit of a record is zero. -/
theorem Opcode.reservedZero_iff (o : Opcode) (record : List Byte) :
    o.reservedZero record = true ↔ ∀ i < 64, byteAt record i &&& ~~~(o.assignedBits i) = 0 := by
  simp [Opcode.reservedZero]

/-- The bits assigned to an opcode in one test: whole bytes, and otherwise the flag bits (R196, R197). -/
theorem Opcode.assignedBits_eq (o : Opcode) (i : Nat) :
    o.assignedBits i =
      if i = 0 ∨ (4 ≤ i ∧ i ≤ 7) ∨ (i = 1 ∧ o.addressesContext = true) ∨
        o.fields.any (fun f => f.1 ≤ i && i < f.1 + f.2) = true then 0xFF
      else ((o.flagBits.find? fun f => f.1 == i).map (·.2)).getD 0 := by
  have hhead : (i = 0 ∨ (4 ≤ i ∧ i < 8)) ↔ (i = 0 ∨ (4 ≤ i ∧ i ≤ 7)) := by omega
  simp only [Opcode.assignedBits, hhead, ← or_assoc (a := i = 0)]
  by_cases hh : i = 0 ∨ (4 ≤ i ∧ i ≤ 7)
  · simp only [hh, true_or, if_true]
  · by_cases h1 : i = 1
    · subst h1
      have hfields : (o.fields.any fun f => f.1 ≤ 1 && 1 < f.1 + f.2) = false :=
        List.any_eq_false.2 fun f hf => by have := o.fields_bounds f hf; simp; omega
      have hflags : (o.flagBits.find? fun f => f.1 == 1) = none :=
        List.find?_eq_none.2 fun f hf => by have := o.flagBits_bounds f hf; simp; omega
      simp [hfields, hflags]
    · simp only [hh, h1, if_false, false_and, false_or]

end Sys2Proof

namespace Sys2Proof.Machine

open Sys2Proof

-- One thread at a time: each thread of a parallel proof reserves 1 GiB of the check's memory limit.
set_option Elab.async false

/-! ### The common checks -/

/-- The common checks on a record of a known opcode, in their order (R12). -/
theorem commonCheck_known {o : Opcode} {record : List Byte} (h : o.code = byteAt record 0) (ring : RingId)
    (limit : Addr) :
    commonCheck ring limit record =
      if o.adminOnly ∧ ring ≠ 0 then .inl .wrongRing
      else if o.addressesContext ∧ 7 < (byteAt record 1).toNat then .inl .badContext
      else if !o.reservedZero record then .inl .badParam
      else if (o.read record).addressOk limit then .inr (o.read record) else .inl .badAddress := by
  simp only [commonCheck, ← h, Opcode.ofByte_code]

/-- The region of a command and the check of its address (R13). The whole numbers of the check do not wrap (log 21). -/
theorem addressOk_iff (cmd : Command) (limit : Addr) :
    cmd.addressOk limit = true ↔ ∀ a align len, cmd.region = some (a, align, len) →
      a.toNat % align = 0 ∧ (a.toNat : Int) + len - 1 < limit.toNat := by
  unfold Command.addressOk
  cases hr : cmd.region with
  | none => simp
  | some g =>
    obtain ⟨a, align, len⟩ := g
    simp only [regionBelow, Bool.and_eq_true, beq_iff_eq, decide_eq_true_eq]
    constructor
    · rintro ⟨h1, h2⟩ a' align' len' heq
      cases heq
      exact ⟨h1, by omega⟩
    · intro h
      obtain ⟨h1, h2⟩ := h a align len rfl
      exact ⟨h1, by omega⟩

/-- Settles O15: what the model says of each opcode is what the statement writes out, and the checks come in its order. -/
theorem commonChecksInOrder : Obligations.CommonChecksInOrder := by
  intro ring limit record op known adminOnly inContext fields flags assigned address region answers
  have hknown : op ∈ known ↔ ∃ o : Opcode, o.code = op := by
    rw [show known = Opcode.all.map Opcode.code from rfl, List.mem_map]
    exact exists_congr fun o => and_iff_right o.mem_all
  refine ⟨fun hop => ?_, fun hop => ?_⟩
  · have hno : Opcode.ofByte (byteAt record 0) = none := Opcode.ofByte_none fun o ho => hop (hknown.2 ⟨o, ho⟩)
    simp only [answers, commonCheck, hno]
  · obtain ⟨o, ho⟩ := hknown.1 hop
    have hadmin : op ∈ adminOnly ↔ o.adminOnly = true := by rw [← ho]; cases o <;> decide
    have hctx : op ∈ inContext ↔ o.addressesContext = true := by rw [← ho]; cases o <;> decide
    have hfields (i : Nat) : fields.any (fun f => f.1 ≤ i && i ≤ f.2) = true ↔
        o.fields.any (fun f => f.1 ≤ i && i < f.1 + f.2) = true := by
      simp only [fields, ← ho]
      cases o <;> simp [Opcode.code, Opcode.fields] <;> omega
    have hflags (i : Nat) : flags i = ((o.flagBits.find? fun f => f.1 == i).map (·.2)).getD 0 := by
      simp only [flags, ← ho]
      cases o <;> simp [Opcode.code, Opcode.flagBits, List.find?_singleton, eq_comm (b := i)]
      all_goals split_ifs <;> rfl
    have hassigned (i : Nat) : assigned i = o.assignedBits i := by
      rw [Opcode.assignedBits_eq, ← hflags]
      simp only [assigned, hctx, hfields]
    have hregion : (o.read record).region = region.map fun g => (longAt record 16, g.1, g.2) := by
      simp only [region, ← ho]
      cases o <;> simp [Opcode.code, Opcode.read, Command.region, Nat.mul_comm]
    have hzero : o.reservedZero record = true ↔ ∀ i < 64, byteAt record i &&& ~~~(assigned i) = 0 := by
      simp only [Opcode.reservedZero_iff, hassigned]
    have haddr : (o.read record).addressOk limit = true ↔ ∀ align len, region = some (align, len) →
        address % align = 0 ∧ (address : Int) + len - 1 < limit.toNat := by
      rw [addressOk_iff, hregion]
      constructor
      · exact fun h align len hr => h _ align len (by rw [hr]; rfl)
      · intro h a align len hr
        obtain ⟨⟨align', len'⟩, hr', heq⟩ := Option.map_eq_some_iff.1 hr
        cases heq
        exact h align' len' hr'
    have hcheck := commonCheck_known ho ring limit
    simp only [hadmin, hctx, answers]
    refine ⟨fun ha hr => ?_, fun h1 => ⟨fun hc hb => ?_, fun h2 => ⟨fun ⟨i, hi, hne⟩ => ?_, fun hz => ?_⟩⟩⟩
    · rw [hcheck, if_pos ⟨ha, hr⟩]
    · rw [hcheck, if_neg h1, if_pos ⟨hc, hb⟩]
    · have hres : ¬o.reservedZero record = true := fun h => hne (hzero.1 h i hi)
      rw [hcheck, if_neg h1, if_neg h2, if_pos (by simpa using hres)]
    · rw [hcheck, if_neg h1, if_neg h2, if_neg (by simpa using hzero.2 hz)]
      refine ⟨fun align len hr hbad => if_neg fun hok => ?_, fun hgood o' ho' => ?_⟩
      · obtain ⟨halign, hlt⟩ := haddr.1 hok align len hr
        omega
      · rw [if_pos (haddr.2 hgood), Opcode.code_injective (ho'.trans ho.symm)]

end Sys2Proof.Machine
end

section
/-!
PROOFS. Completion records on the link, and the messages they bring.
-/

namespace Sys2Proof.Machine

open Sys2Proof

-- One thread at a time: each thread of a parallel proof reserves 1 GiB of the check's memory limit.
set_option Elab.async false

/-! ### Completion records on the link -/

theorem CompletionWriter.full_iff (c : CompletionWriter) : c.full = true ↔ (c.tail + 1) % c.size = c.head := by
  simp [CompletionWriter.full]

/-- COMPLETION_WRITE_BEGIN where the record may be asked for (R18). -/
theorem exec_completionWriteBegin {s : State} {m : Completion} {rest : List Completion}
    (hb : s.cpl.backlog = m :: rest) (hd : s.link.device = .online) (hw : s.cpl.writing = false)
    (hf : ¬s.cpl.full = true) :
    exec .completionWriteBegin s = .next (State.modBus { s with cpl := { s.cpl with writing := true } } fun b =>
      { b with class1 := b.class1 ++ [.record s.cpl.recordAddress (m.record s.cpl.phase)] }) := by
  simp [exec, execCompletionWriteBegin, hb, hd, hw, hf]

/-- COMPLETION_WRITE_BEGIN with no record waiting, one being written, or the ring full. -/
theorem exec_completionWriteBegin_nothing {s : State}
    (h : s.cpl.backlog = [] ∨ s.cpl.writing = true ∨ s.cpl.full = true) :
    exec .completionWriteBegin s = .next s := by
  refine congrArg Host.Outcome.next ?_
  split
  · next hb =>
    refine if_neg fun hc => ?_
    rcases h with h | h | h
    · cases hb.symm.trans h
    · simp [h] at hc
    · simp [h] at hc
  · rfl

/-- COMPLETION_WRITE_DONE while the device is ONLINE (R18, R191, R192). -/
theorem exec_completionWriteDone {s : State} {first : Bool} {a : Addr} {bytes : List Byte}
    (hd : s.link.device = .online) (hbusy : s.link.bus.busy = true) (hlink : s.link.bus.onLink = some (.record a bytes)) :
    exec (.completionWriteDone first) s = .next { s.sent with
      cpl := s.cpl.recordSent
      link := (s.sent.link.recordSent s.timeBase).testAfterSend s.timeBase first } := by
  simp only [exec, execCompletionWriteDone, hbusy, hlink, hd, if_true]
  rfl

/-- Everything the COUNT test at a record's send does (R192). -/
theorem HostLink.testAfterSend_eq (h : HostLink) (now : Time) (first : Bool) :
    h.testAfterSend now first =
      if (h.regs.intEnable = true ∧ h.device = .online) ∧ h.regs.intCount.toNat ≤ h.unsignalled then
        messageOf h (if first && h.deadlineReached now then .time else .count)
      else h := by
  simp only [HostLink.testAfterSend, HostLink.signals_iff, HostLink.countReached, HostLink.interrupt_eq,
    decide_eq_true_eq, Bool.and_eq_true]

/-- Settles O50: the records one by one, and the tests that each of them and the deadline bring. -/
theorem recordsAreWrittenInTurnAndSignalled : Obligations.RecordsAreWrittenInTurnAndSignalled := by
  intro s m rest first hd full tail counted late reached sent
  have hfull : s.cpl.full = true ↔ full := s.cpl.full_iff
  refine ⟨fun hb hw hf => exec_completionWriteBegin hb hd hw (mt hfull.1 hf), fun h => ?_, fun a bytes hbusy hlink => ?_,
    fun d hdl hen => ?_, fun h => ?_⟩
  · exact exec_completionWriteBegin_nothing (h.imp_right (Or.imp_right hfull.2))
  · have hcounted : s.sent.link.recordSent s.timeBase = counted := rfl
    have hlate : counted.deadlineReached s.timeBase = late := rfl
    have hexec : exec (.completionWriteDone first) s = .next (sent (counted.testAfterSend s.timeBase first)) := by
      rw [exec_completionWriteDone hd hbusy hlink, hcounted]
      rfl
    rw [HostLink.testAfterSend_eq, hlate] at hexec
    refine ⟨fun hr => ?_, fun hr => ?_⟩
    · rw [if_pos ⟨⟨hr.1, hd⟩, hr.2⟩] at hexec
      exact hexec
    · rw [if_neg fun hc => hr ⟨hc.1.1, hc.2⟩] at hexec
      exact hexec
  · have hsignals : s.link.signals = true := s.link.signals_iff.2 ⟨hen, hd⟩
    simp only [exec, execFirstUnsignalledDeadline, hdl, hsignals, if_true, State.advanceTo_eq, HostLink.interrupt_eq]
  · refine congrArg Host.Outcome.next ?_
    split
    · next d hdl =>
      refine if_neg fun hs => ?_
      rcases h with h | h
      · cases hdl.symm.trans h
      · cases h.symm.trans (s.link.signals_iff.1 hs).1
    · rfl

end Sys2Proof.Machine
end

section
/-!
PROOFS. The claimant that has waited longest is handed in: what is due of a context, and each kind of claim met.
-/

namespace Sys2Proof.Machine

open Sys2Proof

-- One thread at a time: each thread of a parallel proof reserves 1 GiB of the check's memory limit.
set_option Elab.async false

/-! ### What a context hands in next -/

theorem Ctx.nextHandIn_returnBuffer {x : Ctx} {b : Buffer} {behind : List ReturnItem} (holds : Bool)
    (hr : x.cap.returns = .buffer b :: behind) (h : ¬(b.due = some .aborted ∧ x.cap.writing = true)) :
    x.nextHandIn holds = some (.returnBuffer b) := by
  simp only [Ctx.nextHandIn, hr]
  exact if_neg h

theorem Ctx.nextHandIn_returnCommand {x : Ctx} {e : Nat} {a : Answer} {behind : List ReturnItem} (holds : Bool)
    (hr : x.cap.returns = .command e a :: behind) : x.nextHandIn holds = some (.returnCommand e a) := by
  simp only [Ctx.nextHandIn, hr]

theorem Ctx.nextHandIn_retire {x : Ctx} {b : Buffer} {later : List Buffer} {status : BufferStatus} (holds : Bool)
    (hr : x.cap.returns = []) (hq : x.cap.queue = b :: later) (hd : b.due = some status) :
    x.nextHandIn holds = some (.retire b status) := by
  simp only [Ctx.nextHandIn, hr, hq, hd]

/-- With nothing returned and no buffer due, the ARM completion is next, if it is due. -/
theorem Ctx.nextHandIn_armDue {x : Ctx} (holds : Bool) (hr : x.cap.returns = [])
    (hq : ∀ b later, x.cap.queue = b :: later → b.due = none) : x.nextHandIn holds = x.armDue holds := by
  simp only [Ctx.nextHandIn, hr]
  split
  · next b later hbl => simp only [hq b later hbl]
  · rfl

/-- A run that has ended, with no frame left and the converter given up, has its ARM completion due (R87). -/
theorem Ctx.armDue_ended {x : Ctx} {reason : EndReason} {entry : Nat} (hr : x.run.endReason = some reason)
    (he : x.run.armEntry = some entry) (hs : x.state = .armed ∨ x.state = .stopping) (hf : x.cap.store = [])
    (hw : x.cap.writing = false) : x.armDue false = some (.armAnswer entry reason) := by
  have hended : x.runEnded false = true := by simpa [Ctx.runEnded, hf, hw] using hs
  simp only [Ctx.armDue, hr, he, hended, if_true]

/-- A context that has left its run has no ARM completion due. -/
theorem Ctx.armDue_leaveRun (x : Ctx) (reason : EndReason) (holds : Bool) : (x.leaveRun reason).armDue holds = none :=
  rfl

theorem EndReason.stateAfter_eq (reason : EndReason) :
    reason.stateAfter = if reason = .overrun ∨ reason = .pacingOverrun then .halted else .ready := by
  cases reason <;> rfl

/-- A BUFFER completion field by field (R149, R199). -/
theorem Buffer.completion_eq (b : Buffer) (c : CtxId) (status : BufferStatus) (now : Time) :
    b.completion c status now = ⟨.buffer status, b.ring, BitVec.ofNat 8 c.val, b.tag, 0, word b.used, b.firstScan,
      (word b.frames &&& 0xFFFFF) ||| (if b.gap then 0x80000000 else 0), now.setWidth 48⟩ := by
  have hgap : bitAt b.gap 31 = if b.gap then 0x80000000 else 0 := by cases b.gap <;> rfl
  simp only [Buffer.completion, bufferWord2, hgap]
  rfl

/-- Everything the BUFFER completion of a context does as it joins (R149, R150, R169). -/
theorem State.joinBuffer_eq (s : State) (c : CtxId) (b : Buffer) (status : BufferStatus) :
    s.joinBuffer c b status = { s with
      cpl := { s.cpl with backlog := s.cpl.backlog ++ [b.completion c status s.timeBase] }
      lines := { s.lines with lines := s.lines.lines.map fun l =>
        if l.mode = LineMode.event c .bufferRetired then { l with pulseEnd := some (s.timeBase + 10) } else l } } := by
  have hpulse : (fun l : Line => l.afterEvent c .bufferRetired s.timeBase) = fun l =>
      if l.mode = LineMode.event c .bufferRetired then { l with pulseEnd := some (s.timeBase + 10) } else l := by
    funext l
    simp only [Line.afterEvent, Line.follows, beq_iff_eq]
    rfl
  rw [← hpulse, ← mapEach_eq]
  rfl

/-- A BUFFER completion of a context joins, and the context's record changes with it. -/
theorem State.joinBuffer_modCtx (s : State) (c : CtxId) (b : Buffer) (status : BufferStatus) (f : Ctx → Ctx) :
    (s.joinBuffer c b status).modCtx c f = { s with
      ctxs := s.ctxs.set c.val (f (s.ctx c))
      cpl := { s.cpl with backlog := s.cpl.backlog ++ [b.completion c status s.timeBase] }
      lines := { s.lines with lines := s.lines.lines.map fun l =>
        if l.mode = LineMode.event c .bufferRetired then { l with pulseEnd := some (s.timeBase + 10) } else l } } := by
  rw [State.joinBuffer_eq]
  rfl

/-- The first buffer of the return list joins (R150, R156). -/
theorem State.joinContext_returnBuffer {s : State} {c : CtxId} {b : Buffer} {status : BufferStatus} {t : State}
    (hn : (s.ctx c).nextHandIn (s.holdsConverter c) = some (.returnBuffer b)) (hdue : b.due = some status)
    (ht : (s.joinBuffer c b status).modCtx c (fun x => x.dropReturn.settled) = t) :
    s.joinContext c = (t, t.contextClaim c) := by
  simp only [State.joinContext, hn, hdue, Option.getD_some, ht]

/-- The buffer due at the head of the queue joins (R150). -/
theorem State.joinContext_retire {s : State} {c : CtxId} {b : Buffer} {status : BufferStatus} {t : State}
    (hn : (s.ctx c).nextHandIn (s.holdsConverter c) = some (.retire b status))
    (ht : (s.joinBuffer c b status).modCtx c (fun x => x.dropHead.settled) = t) :
    s.joinContext c = (t, t.contextClaim c) := by
  simp only [State.joinContext, hn, ht]

/-- The command that waits behind the returned buffers joins (R81, R91, R92). -/
theorem State.joinContext_returnCommand {s : State} {c : CtxId} {p : PendingEntry} {a : Answer} {t : State}
    (hn : (s.ctx c).nextHandIn (s.holdsConverter c) = some (.returnCommand p.age a)) (hp : s.entry? p.age = some p)
    (ht : answeredBy (s.modCtx c Ctx.dropReturn) p a = t) :
    s.joinContext c = (t, t.contextClaim c ++ barrierClaims s p) := by
  simp only [State.joinContext, hn]
  rw [State.joinCommand_eq (s := s.modCtx c Ctx.dropReturn) hp, ht]
  rfl

/-! ### The claimant that has waited longest -/

/-- CLAIMANT_HANDED_IN with a claimant waiting and room: its claim is met and what it leads to is handed in (R20). -/
theorem exec_claimantHandedIn {s : State} {claim : Claim} {rest : List Claim} (hd : s.link.device = .online)
    (hc : s.cpl.claimants = claim :: rest) (hroom : s.cpl.backlog.length < 32) {j : State × List Claim}
    (hj : State.joinClaim { s with cpl := { s.cpl with claimants := rest } } claim = j) :
    exec .claimantHandedIn s = .next (j.1.handIn j.2) := by
  have hdrop : s.dropClaimant = { s with cpl := { s.cpl with claimants := rest } } := by
    simp only [State.dropClaimant, hc, List.tail_cons]
  simp only [exec, execClaimantHandedIn, hc]
  rw [if_pos ⟨hd, hroom⟩, hdrop, hj]

/-- CLAIMANT_HANDED_IN with nobody waiting or no room. -/
theorem exec_claimantHandedIn_nothing {s : State} (h : s.cpl.claimants = [] ∨ 32 ≤ s.cpl.backlog.length) :
    exec .claimantHandedIn s = .next s := by
  refine congrArg Host.Outcome.next ?_
  split
  · next hc =>
    refine if_neg fun hg => ?_
    rcases h with h | h
    · cases hc.symm.trans h
    · exact absurd hg.2 (Nat.not_lt.2 h)
  · rfl

/-- A BARRIER behind a command is another entry. -/
theorem barriersBehind_ne {s : State} {p : PendingEntry} {b : Nat} (h : b ∈ barriersBehind s p) : b ≠ p.age := by
  simp only [barriersBehind, List.mem_filter, Bool.and_eq_true, List.any_eq_true, bne_iff_ne] at h
  obtain ⟨-, ⟨e, -, -, hne⟩, -⟩ := h
  exact hne

theorem answeredBy_apart (s : State) (p : PendingEntry) (a : Answer) : (answeredBy s p a).apart = s.apart := rfl

/-- The last of a run's STOPs and ABORTs joins, and the outputs take the run end (R87, R177, log 33). -/
theorem State.joinTail_last {s : State} {p : PendingEntry} (hp : s.entry? p.age = some p) (c : CtxId) (a : Answer) :
    s.joinTail c [⟨p.age, a⟩] =
      ({ answeredBy s p a with outs := s.outs.map fun o => outputAfter o .runEnd c },
        runEventClaims s .runEnd c ++ barrierClaims s p) := by
  simp only [State.joinTail, State.joinCommand_eq hp, State.runEvent_eq]
  rfl

theorem State.joinTail_more {s : State} {p : PendingEntry} (hp : s.entry? p.age = some p) (c : CtxId) (a : Answer)
    {more : List TailItem} (hm : more ≠ []) :
    s.joinTail c (⟨p.age, a⟩ :: more) = (answeredBy s p a, .runTail c more :: barrierClaims s p) := by
  obtain ⟨it, rest, rfl⟩ := List.exists_cons_of_ne_nil hm
  simp only [State.joinTail, State.joinCommand_eq hp]

/-- A context of which nothing is due claims nothing. -/
theorem State.contextClaim_nil {s : State} {c : CtxId} (h : (s.ctx c).nextHandIn (s.holdsConverter c) = none) :
    s.contextClaim c = [] := by simp [State.contextClaim, h]

/-- The state in which the ARM completion has joined and its context has left the run (R87, R88). -/
def armAnswered (s : State) (c : CtxId) (p : PendingEntry) (reason : EndReason) : State :=
  (answeredBy s p ((s.ctx c).run.armAnswer reason)).setCtx c ((s.ctx c).leaveRun reason)

theorem ctx_armAnswered (s : State) (c : CtxId) (p : PendingEntry) (reason : EndReason) :
    (armAnswered s c p reason).ctx c = (s.ctx c).leaveRun reason := State.ctx_setCtx_self _ _ _

section

variable {s : State} {c : CtxId} {p : PendingEntry} {reason : EndReason}

/-- A context whose ARM completion is due has nothing else due once it has joined. -/
theorem State.joinContext_arm {j : State × List Claim}
    (hn : (s.ctx c).nextHandIn (s.holdsConverter c) = some (.armAnswer p.age reason))
    (hr : (s.ctx c).cap.returns = []) (hq : ∀ b later, (s.ctx c).cap.queue = b :: later → b.due = none)
    (hj : s.joinArm c p.age reason = j) (hx : j.1.ctx c = (s.ctx c).leaveRun reason) : s.joinContext c = j := by
  have hnone : j.1.contextClaim c = [] := by
    refine State.contextClaim_nil ?_
    rw [hx, Ctx.nextHandIn_armDue (x := (s.ctx c).leaveRun reason) _ hr hq, Ctx.armDue_leaveRun]
  simp only [State.joinContext, hn, hj]
  rw [hnone, List.append_nil]

/-- The ARM completion joins with no STOP and no ABORT kept: the outputs take the run end (R87, R177, log 33). -/
theorem State.joinArm_alone (hp : s.entry? p.age = some p) (ht : (s.ctx c).run.tail reason = []) :
    s.joinArm c p.age reason =
      ({ armAnswered s c p reason with outs := s.outs.map fun o => outputAfter o .runEnd c },
        runEventClaims s .runEnd c ++ barrierClaims s p) := by
  simp only [State.joinArm, State.joinCommand_eq hp, ht, State.runEvent_eq]
  rfl

/-- The ARM completion joins before the STOPs and ABORTs kept with it (R87). -/
theorem State.joinArm_tail (hp : s.entry? p.age = some p) (ht : (s.ctx c).run.tail reason ≠ []) :
    s.joinArm c p.age reason =
      (armAnswered s c p reason, .runTail c ((s.ctx c).run.tail reason) :: barrierClaims s p) := by
  obtain ⟨it, rest, htail⟩ := List.exists_cons_of_ne_nil ht
  simp only [State.joinArm, State.joinCommand_eq hp, htail]
  rfl

end

/-- Settles O49: the claim is met by its kind, and for a context by what is due of it first. -/
theorem longestWaitingClaimantIsHandedIn : Obligations.LongestWaitingClaimantIsHandedIn := by
  refine ⟨fun s h => exec_claimantHandedIn_nothing h, ?_⟩
  intro s claim rest hd hc hroom u push goesTo runEnds
  have meets {j : State × List Claim} (hj : u.joinClaim claim = j) : goesTo (j.1.handIn j.2) :=
    exec_claimantHandedIn hd hc hroom hj
  refine ⟨?_, ?_, ?_, ?_⟩
  · rintro p a rfl hp
    have hmet := meets (State.joinCommand_eq (s := u) hp a)
    refine ⟨fun hnone => ?_, fun b hb hbe => ?_⟩
    · have hclaims : barrierClaims u p = [] := congrArg (List.map _) hnone
      rw [hclaims, State.handIn_nil] at hmet
      exact hmet
    · have hclaims : barrierClaims u p = [.command b.age (answer .ok 0 0 0)] := congrArg (List.map _) hb
      have hne : b.age ≠ p.age := barriersBehind_ne (s := s) (by rw [hb]; exact List.mem_singleton_self _)
      have hans := State.handIn_answered (State.entry_answeredBy (s := u) hbe hne a) (answer .ok 0 0 0)
      rw [hclaims] at hmet
      exact ⟨_, hmet, hans.1, hans.2.trans (answeredBy_apart _ _ _)⟩
  · rintro n ring head w0 w1 rfl
    have hmet := meets (j := (_, [])) rfl
    rw [State.handIn_nil] at hmet
    exact hmet
  · rintro c p a more rfl hp
    refine ⟨fun hm => ?_, ?_⟩
    · exact meets (State.joinTail_more (s := u) hp c a hm)
    · rintro rfl
      exact meets (State.joinTail_last (s := u) hp c a)
  · rintro c rfl x pulsing given
    have hctx : u.ctx c = x := rfl
    refine ⟨?_, ?_, ?_, ?_⟩
    · intro b behind status hr hdue hwait left t
      have hleft : x.dropReturn = left := by simp only [Ctx.dropReturn, hr, List.tail_cons, left]
      have hn := Ctx.nextHandIn_returnBuffer (u.holdsConverter c) hr (by simpa [hdue] using hwait)
      refine meets (State.joinContext_returnBuffer hn hdue ?_)
      rw [State.joinBuffer_modCtx, Buffer.completion_eq, hctx, hleft]
      rfl
    · intro p a behind hr hp t
      have hleft : x.dropReturn = { x with cap := { x.cap with returns := behind } } := by
        simp only [Ctx.dropReturn, hr, List.tail_cons]
      have hn := Ctx.nextHandIn_returnCommand (u.holdsConverter c) hr
      refine meets (State.joinContext_returnCommand hn hp ?_)
      rw [State.modCtx, hctx, hleft]
      rfl
    · intro b later status hr hq hdue left t
      have hleft : x.dropHead = left := by simp only [Ctx.dropHead, hq, List.tail_cons, left]
      have hn := Ctx.nextHandIn_retire (u.holdsConverter c) hr hq hdue
      refine meets (State.joinContext_retire hn ?_)
      rw [State.joinBuffer_modCtx, Buffer.completion_eq, hctx, hleft]
      rfl
    · intro p reason hr hq hend harm hp hstate hstore hwriting hholds t tail
      have hn : x.nextHandIn (u.holdsConverter c) = some (.armAnswer p.age reason) := by
        rw [show u.holdsConverter c = false from hholds, Ctx.nextHandIn_armDue _ hr hq,
          Ctx.armDue_ended hend harm hstate hstore hwriting]
      have ht : armAnswered u c p reason = t := by
        simp only [armAnswered, hctx, Ctx.leaveRun, EndReason.stateAfter_eq]
        rfl
      rw [← ht]
      exact ⟨fun hnone => meets (State.joinContext_arm hn hr hq (State.joinArm_alone (s := u) hp hnone)
          (ctx_armAnswered u c p reason)),
        fun hsome => meets (State.joinContext_arm hn hr hq (State.joinArm_tail (s := u) hp hsome)
          (ctx_armAnswered u c p reason))⟩

end Sys2Proof.Machine
end

section
/-!
PROOFS. The Channel Table: what is in use, SET_CHANNEL, the limit check, and the limit report.
-/

namespace Sys2Proof.Machine

open Sys2Proof

-- One thread at a time: each thread of a parallel proof reserves 1 GiB of the check's memory limit.
set_option Elab.async false

/-! ### What is in use -/

/-- Some entry of a table passes a test. -/
theorem any_toList_iff {α : Type} {n : Nat} (v : Vector α n) (p : α → Bool) :
    v.toList.any p = true ↔ ∃ i : Fin n, p v[i.val] = true := by
  rw [Vector.any_toList, Vector.any_eq_true, Fin.exists_iff]

theorem CtxState.active_iff (st : CtxState) : st.active = true ↔ st = .armed ∨ st = .running ∨ st = .stopping := by
  cases st <;> simp [CtxState.active]

/-- A sequence names the inputs of its steps, and the partners of those that are DIFF channels (R32). -/
theorem State.sequenceNames_iff (s : State) (steps : List Step) (ch : ChanId) :
    s.sequenceNames steps ch = true ↔ ∃ st ∈ steps, st.input = ch.val ∨
      ∃ n : ChanId, st.input = n.val ∧ (s.chan n).mode = .diff ∧ ch.val = n.val + 16 := by
  simp only [State.sequenceNames, List.any_eq_true, Bool.or_eq_true, Bool.and_eq_true, beq_iff_eq, List.mem_finRange,
    true_and, and_assoc, eq_comm (a := Fin.val _) (b := Step.input _), eq_comm (a := Fin.val _ + 16)]

/-- A definition names the lines of its source and of its two triggers (R66 check 4). -/
theorem Definition.linesNamed_iff (d : Definition) (l : LineId) :
    d.linesNamed.contains l = true ↔ ∃ e, d.source = .line l e ∨ d.start = .line l e ∨ d.stop = .line l e := by
  have hsource : d.paceLine? = some l ↔ ∃ e, d.source = .line l e := by
    unfold Definition.paceLine?
    cases d.source <;> simp [eq_comm]
  have hstart : d.startLine? = some l ↔ ∃ e, d.start = .line l e := by
    unfold Definition.startLine?
    cases d.start <;> simp [eq_comm]
  have hstop : d.stopLine? = some l ↔ ∃ e, d.stop = .line l e := by
    unfold Definition.stopLine?
    cases d.stop <;> simp [eq_comm]
  simp only [Definition.linesNamed, List.contains_iff_mem, List.mem_append, Option.mem_toList, hsource, hstart, hstop,
    exists_or, or_assoc]

/-- The line a counter counts. -/
theorem Counter.source_iff (k : Counter) (l : LineId) :
    (k.source.map (·.1) == some l) = true ↔ ∃ e, k.source = some (l, e) := by
  simp [Option.map_eq_some_iff]

/-- Settles O24: the tests of R32 and R164, each through the lemma for its part. -/
theorem inUseMeansNamedByAnActiveContext : Obligations.InUseMeansNamedByAnActiveContext := by
  refine ⟨fun s ch => ?_, fun s l => ?_⟩
  · simp only [State.channelInUse, any_toList_iff, Bool.and_eq_true, CtxState.active_iff, State.sequenceNames_iff]
    rfl
  · simp only [State.lineInUse, Bool.or_eq_true, any_toList_iff, Bool.and_eq_true, CtxState.active_iff,
      Definition.linesNamed_iff, Counter.source_iff]
    rfl

/-! ### SET_CHANNEL -/

/-- A byte that is neither 0 nor 1. -/
theorem one_lt_toNat_iff (b : Byte) : 1 < b.toNat ↔ b ≠ 0 ∧ b ≠ 1 := by
  bv_omega

/-- Parameters that no check of R33 refuses name a channel of the table. -/
theorem State.channel_lt_of_setChannelFault_none {s : State} {q : ChannelParams} (h : s.setChannelFault q = none) :
    q.channel.toNat < 32 := by
  by_contra hn
  simp [State.setChannelFault, show 31 < q.channel.toNat by omega] at h

/-- Settles O25: the checks of R33 stand in the order of the statement, and the entry set is that of R35. -/
theorem setChannelByItsChecks : Obligations.SetChannelByItsChecks := by
  intro s q p h u n ch partner st mode range entry set both
  have hfault : u.setChannelFault q = if st = .ok then none else some st := by
    simp only [State.setChannelFault, one_lt_toNat_iff, st]
    split_ifs <;> trivial
  have hexec : exec (.setChannel q) s = .next (match u.setChannelFault q with
      | some st => u.complete p.age st 0 0 0
      | none => (u.setChannel q).complete p.age .ok 0 0 0) := congrArg Host.Outcome.next (h.ownerTakes _)
  by_cases hok : st = .ok
  · rw [hfault, if_pos hok] at hexec
    have hlt : n < 32 := State.channel_lt_of_setChannelFault_none (hfault.trans (if_pos hok))
    have hset : u.setChannel q = if n < 16 ∧ (s.chan ch).mode ≠ mode then both else set := by
      have hch : ch.val = n := Nat.mod_eq_of_lt hlt
      rw [← hch]
      rfl
    rw [hset] at hexec
    rw [if_pos hok, hok]
    split_ifs at hexec ⊢ <;> exact h.completes hexec rfl rfl rfl rfl
  · rw [hfault, if_neg hok] at hexec
    rw [if_neg hok]
    exact h.completes hexec rfl rfl rfl rfl

/-! ### The limit report -/

theorem LimitState.code_eq (l : LimitState) :
    word l.code = match l with
      | .unknown => 0
      | .inside => 1
      | .above => 2
      | .below => 3 := by
  cases l <;> rfl

/-- Settles O26: REARM_LIMIT by its one check, and the report logic by the three conditions of R40 and R41. -/
theorem limitReportIsOneShotUntilRearmed : Obligations.LimitReportIsOneShotUntilRearmed := by
  constructor
  · intro s channel p h u ch old
    have hexec : exec (.rearmLimit channel) s = .next (if 31 < channel.toNat then u.complete p.age .badParam 0 0 0
        else (u.setChan ch { old with armed := true }).complete p.age .ok (if old.armed then 1 else 0)
          (word old.limit.code) 0) := congrArg Host.Outcome.next (h.ownerTakes _)
    refine ⟨fun hbig => ?_, fun hsmall => ?_⟩
    · rw [if_pos hbig] at hexec
      exact h.completes hexec rfl rfl rfl rfl
    · rw [if_neg (Nat.not_lt.2 hsmall), LimitState.code_eq] at hexec
      exact h.completes hexec rfl rfl rfl rfl
  · intro s e ch room
    have hiff : (ch.report ∧ ch.armed ∧ s.backlogOpen) ↔ ch.report = true ∧ ch.armed = true ∧ room := by
      rw [State.backlogOpen_iff]
    refine ⟨fun hreport harmed hroom => ?_, fun hnot => if_neg (mt hiff.1 hnot)⟩
    refine (if_pos (hiff.2 ⟨hreport, harmed, hroom⟩)).trans ?_
    simp only [LimitEvent.completion, LimitState.code_eq]
    rfl

/-! ### The limit check -/

/-- Settles O27: the event's condition of R37 is that of each row of the table. -/
theorem limitStateTable : Obligations.LimitStateTable := by
  intro s n code c time ch region raised
  have hraised : raisesEvent ch.limit region = raised := by
    have hregion : region ≠ .unknown := by
      simp only [region]
      split_ifs <;> decide
    clear_value region
    simp only [raised]
    cases region
    case unknown => exact absurd rfl hregion
    all_goals cases ch.limit <;> rfl
  refine ⟨fun hon => ?_, fun hoff => if_neg (by simp [ch, hoff])⟩
  have hcheck : s.limitCheck n code c time = (s.setChan n { ch with limit := region },
      if raisesEvent ch.limit region then some ⟨n, region, ch.limit, code, c, time⟩ else none) := if_pos hon
  rw [hcheck, hraised]
  exact ⟨rfl, rfl⟩

end Sys2Proof.Machine
end

section
/-!
PROOFS. SLOT_END: the sample of a slot handed on, and what becomes of the grant.
-/

namespace Sys2Proof.Machine

open Sys2Proof

-- One thread at a time: each thread of a parallel proof reserves 1 GiB of the check's memory limit.
set_option Elab.async false

/-! ### The end of a grant -/

/-- A sample placed in the record being filled (R140). -/
theorem Ctx.placeSample_eq (x : Ctx) (pos : Nat) (code : Half) :
    x.placeSample pos code = { x with cap := { x.cap with store := x.cap.store.map fun f =>
      if f.cond = .filling then { f with samples := f.samples.set pos code } else f } } := by
  simp only [Ctx.placeSample, Frame.place, Frame.isFilling, beq_iff_eq]

/-- The record being filled becomes COMPLETE (R140). -/
theorem Ctx.completeFrame_eq (x : Ctx) :
    x.completeFrame = { x with cap := { x.cap with store := x.cap.store.map fun f =>
      if f.cond = .filling then { f with cond := .complete } else f } } := by
  have hframe : Frame.completed = fun f => if f.cond = .filling then { f with cond := .complete } else f := by
    funext f
    simp only [Frame.completed, Frame.isFilling, beq_iff_eq]
  rw [Ctx.completeFrame, hframe]

/-- A run whose count is reached ends COUNT_DONE with its last scan (R75, R114). -/
theorem Ctx.doneIfCounted_eq (x : Ctx) :
    x.doneIfCounted =
      if x.state = .running ∧ x.pacing.countReached = true then
        { x with
          state := .stopping
          run := { x.run with endReason := some .countDone }
          pacing := pacingOver x.pacing }
      else x := rfl

/-- A SCAN grant that ends completes the frame (R104). -/
theorem Ctx.grantEnded_scan {x : Ctx} (h : x.definition.mode = .scan) :
    x.grantEnded = x.freeTick.completeFrame.doneIfCounted := by
  simp only [Ctx.grantEnded, h]

/-- A STEP grant that ends with pacing off only frees the tick (R114). -/
theorem Ctx.grantEnded_off {x : Ctx} (h : x.definition.mode = .step) (hp : x.pacing.phase = .off) :
    x.grantEnded = x.freeTick := by
  simp only [Ctx.grantEnded, h, if_pos hp]

/-- A STEP grant that ends before the last position moves on to the next (R104). -/
theorem Ctx.grantEnded_next {x : Ctx} (h : x.definition.mode = .step) (hp : x.pacing.phase ≠ .off)
    (hn : x.pacing.nextPos + 1 < scanPositions x.steps) :
    x.grantEnded = { x with pacing := { x.pacing with tick := .free, nextPos := x.pacing.nextPos + 1 } } := by
  simp only [Ctx.grantEnded, h, if_neg hp, if_pos hn]
  rfl

/-- A STEP grant that ends at the last position completes the frame (R104). -/
theorem Ctx.grantEnded_last {x : Ctx} (h : x.definition.mode = .step) (hp : x.pacing.phase ≠ .off)
    (hn : scanPositions x.steps ≤ x.pacing.nextPos + 1) :
    x.grantEnded =
      Ctx.doneIfCounted { x.completeFrame with pacing := { x.pacing with tick := .free, nextPos := 0 } } := by
  simp only [Ctx.grantEnded, h, if_neg hp, if_neg (Nat.not_lt.2 hn)]
  rfl

/-- A grant with positions left goes on with the next (R104, R116). -/
theorem State.endSlot_next {g : Grant} (h : g.slot.pos < g.last) (t : State) :
    t.endSlot g = { t with conv := { t.conv with
      holder := .context { g with slot := t.slotAt g.ctx (g.slot.pos + 1) g.slot.stop } } } := if_pos h

/-- A grant at its last position ends: the converter is free, and the arbiter selects (R104, R120). -/
theorem State.endSlot_last {g : Grant} (h : g.last ≤ g.slot.pos) (t : State) :
    t.endSlot g = ({ t.setCtx g.ctx (t.ctx g.ctx).grantEnded with
      conv := { t.conv with holder := .none } }).arbitrate.settleCtx g.ctx := if_neg (Nat.not_lt.2 h)

/-! ### The sample handed on -/

theorem exec_slotEnd {s : State} {g : Grant} (hd : s.link.device = .online) (hg : s.conv.holder = .context g)
    (raw : Half) (order : List CtxId) (read : ReadOrder) :
    exec (.slotEnd raw ⟨order, read⟩) s =
      .next (readInOrder read s (((s.advanceTo g.slot.stop).handSample g raw order).endSlot g)) := by
  rw [← State.readBy_eq]
  simp only [exec, execSlotEnd, hd, hg]

/-- A pseudo-input's value is placed as it was read (R124). -/
theorem State.handSample_digital {g : Grant} {value : Half} (h : g.slot.input = .digital value) (s : State) (raw : Half)
    (order : List CtxId) : s.handSample g raw order = s.modCtx g.ctx (·.placeSample g.slot.pos value) := by
  simp only [State.handSample, h]

/-- An analog code is corrected, placed and compared; a limit event goes to the report logic, then to each watcher (R39,
R40, R123; logs 11 and 28). -/
theorem State.handSample_analog {g : Grant} {ch : ChanId} {mode : ChannelMode} {gain : Nat} {range : Range}
    (h : g.slot.input = .analog ch mode gain range) (s : State) (raw : Half) (order : List CtxId) :
    s.handSample g raw order =
      let code := (s.conv.table[(corrIndex range gain).val]).correct raw
      let l := (s.modCtx g.ctx (·.placeSample g.slot.pos code)).limitCheck ch code g.ctx g.slot.start
      match l.2 with
      | none => l.1
      | some e => (completeOrder allContexts order).foldl (fun t c => t.limitTrigger e c) (l.1.reportLimit e) := by
  simp only [State.handSample, h]
  rfl

/-- The index of a correction entry (R125), for the gains there are. -/
theorem corrIndex_val {gain : Nat} (h : gain ≤ 7) (range : Range) :
    (corrIndex range gain).val = (match range with
      | .bipolar => 0
      | .unipolar => 8) + gain := by
  cases range <;> simp only [corrIndex, Fin.val_ofNat] <;> omega

/-- Settles O39: the sample by its kind of input; then the grant by the positions left, and at its end by the mode. -/
theorem slotEndHandsTheSampleOn : Obligations.SlotEndHandsTheSampleOn := by
  intro s g raw order read hd hg now x placed goesTo
  have hplaced (code : Half) : (s.advanceTo g.slot.stop).modCtx g.ctx (·.placeSample g.slot.pos code) = placed code := by
    simp only [State.modCtx, Ctx.placeSample_eq, State.advanceTo_eq]
    rfl
  have hexec : goesTo ((s.advanceTo g.slot.stop).handSample g raw order) := exec_slotEnd hd hg raw order read
  refine ⟨fun hnodup hall => completeOrder_full hnodup fun c _ => hall c, fun value hin => ?_, ?_,
    fun t hpos => State.endSlot_next hpos t, fun t st hp hi hgain => State.slotAt_eq hp hi hgain _, ?_⟩
  · rwa [State.handSample_digital hin, hplaced] at hexec
  · intro ch mode gain range hin hgain index hindex code l
    have hcode : (s.conv.table[(corrIndex range gain).val]).correct raw = code := by
      simp only [corrIndex_val hgain]
      rfl
    have hhand : (s.advanceTo g.slot.stop).handSample g raw order = match l.2 with
        | none => l.1
        | some e => (completeOrder allContexts order).foldl (fun t c => t.limitTrigger e c) (l.1.reportLimit e) := by
      rw [State.handSample_analog hin]
      simp only [State.advanceTo_conv, hcode, hplaced]
      rfl
    rw [hhand] at hexec
    refine ⟨fun hnone => ?_, fun e hsome => ?_⟩
    · rwa [hnone] at hexec
    · rwa [hsome] at hexec
  · intro t hpos y free complete ends done
    have hends {z : Ctx} (hz : y.grantEnded = z) : ends z := (State.endSlot_last hpos t).trans (by rw [← hz])
    refine ⟨fun hm => hends ?_, fun hm hoff => hends (Ctx.grantEnded_off hm hoff),
      fun hm hon hleft => hends (Ctx.grantEnded_next hm hon hleft), fun hm hon hlast => hends ?_⟩
    · rw [Ctx.grantEnded_scan hm, Ctx.doneIfCounted_eq, Ctx.completeFrame_eq]
      rfl
    · rw [Ctx.grantEnded_last hm hon hlast, Ctx.doneIfCounted_eq, Ctx.completeFrame_eq]
      rfl

end Sys2Proof.Machine
end

section
/-!
PROOFS. No command takes the contexts past the step slots, the staging units and the buffers the part has: only
LOAD_SEQUENCE, DEFINE_CONTEXT and POST_BUFFER give a context more, and each only what its checks leave.
-/

namespace Sys2Proof.Machine

open Sys2Proof

-- One thread at a time: each thread of a parallel proof reserves 1 GiB of the check's memory limit.
set_option Elab.async false

/-! ### What the contexts hold -/

/-- The bounds look at the context table alone. -/
theorem ContextBounds.congr {s t : State} (b : ContextBounds s) (h : t.ctxs = s.ctxs) : ContextBounds t :=
  ⟨by rw [h]; exact b.slots, by rw [h]; exact b.quotas, fun c => by rw [State.ctx_congr h]; exact b.queues c⟩

/-- One record of the table replaced: the bounds hold as far as the new record fits in what the others leave. -/
theorem ContextBounds.setCtx {s : State} (b : ContextBounds s) {c : CtxId} {x : Ctx}
    (hslots : s.slotsOwned + x.slots ≤ 256 + (s.ctx c).slots)
    (hquota : s.unitsHeld + x.cap.quota ≤ 64 + (s.ctx c).cap.quota) (hqueue : x.cap.queue.length ≤ 16) :
    ContextBounds (s.setCtx c x) := by
  have hs := s.sum_setCtx (fun y => y.slots) c x
  have hq := s.sum_setCtx (fun y => y.cap.quota) c x
  simp only [State.slotsOwned] at hslots
  simp only [State.unitsHeld] at hquota
  refine ⟨by omega, by omega, fun d => ?_⟩
  rw [State.ctx_setCtx]
  split
  · exact hqueue
  · exact b.queues d

/-- From `s` to `t` the contexts stay within what the part has to give. -/
structure KeepsContexts (s t : State) : Prop where
  bounds : ContextBounds s → ContextBounds t

theorem KeepsContexts.refl (s : State) : KeepsContexts s s := ⟨id⟩

theorem KeepsContexts.trans {s t u : State} (h : KeepsContexts s t) (g : KeepsContexts t u) : KeepsContexts s u :=
  ⟨fun b => g.bounds (h.bounds b)⟩

/-- An update that leaves the context table alone. -/
theorem KeepsContexts.of_same {s t : State} (h : t.ctxs = s.ctxs) : KeepsContexts s t :=
  ⟨fun b => b.congr h⟩

/-- What keeps the contexts, after an update that leaves them alone. -/
theorem KeepsContexts.after_same {s t u : State} (g : KeepsContexts t u) (h : t.ctxs = s.ctxs) : KeepsContexts s u :=
  .trans (.of_same h) g

/-- After a reset no context holds anything. -/
theorem KeepsContexts.of_reset {s t : State} (h : t.ctxs = State.reset.ctxs) : KeepsContexts s t :=
  have ⟨_, _, hreset⟩ := powerOnMeetsTheBounds
  ⟨fun _ => hreset.congr h⟩

/-- A record is replaced by one with no more slots, units and buffers. -/
theorem KeepsContexts.setCtx {s : State} {c : CtxId} {x : Ctx} (hslots : x.slots ≤ (s.ctx c).slots)
    (hquota : x.cap.quota ≤ (s.ctx c).cap.quota) (hqueue : x.cap.queue.length ≤ (s.ctx c).cap.queue.length) :
    KeepsContexts s (s.setCtx c x) := by
  refine ⟨fun b => ?_⟩
  have hs : s.slotsOwned ≤ 256 := b.slots
  have hq : s.unitsHeld ≤ 64 := b.quotas
  have := b.queues c
  exact b.setCtx (by omega) (by omega) (by omega)

/-- What is calm keeps the contexts. -/
theorem Calm.keepsContexts {s t : State} (h : Calm s t) : KeepsContexts s t where
  bounds b := ⟨by rw [State.sum_congr (fun y => y.slots) fun c => (h.ctxs c).slots]; exact b.slots,
    by rw [State.sum_congr (fun y => y.cap.quota) fun c => (h.ctxs c).quota]; exact b.quotas,
    fun c => (h.ctxs c).queue.trans (b.queues c)⟩

/-- A change of one record that leaves it holding no more. -/
theorem KeepsContexts.modCtx {s : State} {c : CtxId} {f : Ctx → Ctx} (h : ∀ x, (f x).Within x) :
    KeepsContexts s (s.modCtx c f) := (Calm.modCtx c h).keepsContexts

/-- An update that leaves the contexts alone, and then something calm. -/
theorem Calm.keepsContexts_after {s t u : State} (h : Calm t u) (hx : t.ctxs = s.ctxs) : KeepsContexts s u :=
  h.keepsContexts.after_same hx

/-- A hand-in keeps what has been kept before it. -/
theorem KeepsContexts.handIn {s t : State} (h : KeepsContexts s t) (claims : List Claim) :
    KeepsContexts s (t.handIn claims) := h.trans (Calm.handIn t claims).keepsContexts

/-- A flush that moves on keeps what has been kept before it. -/
theorem KeepsContexts.settleCtx {s t : State} (h : KeepsContexts s t) (c : CtxId) : KeepsContexts s (t.settleCtx c) :=
  h.trans (Calm.settleCtx t c).keepsContexts

theorem KeepsContexts.ownerTakes {s : State} {r : RingId} {cmd : Command} {act : Nat → State → State}
    (h : ∀ e t, KeepsContexts t (act e t)) : KeepsContexts s (s.ownerTakes r cmd act) := by
  unfold State.ownerTakes
  split
  · split
    · exact (h _ _).after_same rfl
    · exact .refl s
  · exact .refl s

theorem KeepsContexts.hostAccess {s : State} {f : State → State} (h : KeepsContexts s (f s)) :
    KeepsContexts s (s.hostAccess f) := by
  unfold State.hostAccess
  split
  · exact h
  · exact .refl s

/-! ### The three commands that give a context more -/

/-- LOAD_SEQUENCE reserves no more slots than are free or its own (R49, R51). -/
theorem KeepsContexts.loading {s : State} {c : CtxId} {count : Half} (h : s.loadFault c count = none) (entry : Nat) :
    KeepsContexts s (s.modCtx c (·.loading count.toNat entry)) := by
  refine ⟨fun b => ?_⟩
  have hfits : ¬ 256 - s.slotsOwned + (s.ctx c).slots < count.toNat := by
    intro hlt
    simp only [State.loadFault, State.slotsFree, hlt, if_true] at h
    split_ifs at h
  have hs : s.slotsOwned ≤ 256 := b.slots
  have hq : s.unitsHeld ≤ 64 := b.quotas
  exact b.setCtx (by simp only [Ctx.loading]; omega) (by simp only [Ctx.loading]; omega) (b.queues c)

/-- DEFINE_CONTEXT gives no more units than the other contexts leave (R63). -/
theorem KeepsContexts.defined {s : State} {c : CtxId} {p : DefineParams} (h : s.defineRefusal c p = none) :
    KeepsContexts s (s.modCtx c (·.defined (definitionOf p) p.quota.toNat)) := by
  refine ⟨fun b => ?_⟩
  have hfits : ¬ 64 - (s.unitsHeld - (s.ctx c).cap.quota) < p.quota.toNat := by
    intro hlt
    simp only [State.defineRefusal, State.unitsForCtx, hlt, if_true] at h
    split at h
    · cases h
    · split_ifs at h
  have hs : s.slotsOwned ≤ 256 := b.slots
  have hheld : (s.ctx c).cap.quota ≤ s.unitsHeld := s.le_sum_ctxs (fun y => y.cap.quota) c
  have hq : s.unitsHeld ≤ 64 := b.quotas
  exact b.setCtx (by simp only [Ctx.defined]; omega) (by simp only [Ctx.defined]; omega) (b.queues c)

/-- POST_BUFFER adds a buffer to a queue of fewer than 16 (R142, R143). -/
theorem KeepsContexts.joinQueue {s : State} {c : CtxId} {length : Word} (h : s.postFault c length = none)
    (buffer : Buffer) : KeepsContexts s (s.modCtx c (·.joinQueue buffer)) := by
  refine ⟨fun b => ?_⟩
  have hroom : ¬ 16 ≤ (s.ctx c).cap.queue.length := by
    intro hfull
    simp only [State.postFault, hfull, if_true] at h
    split_ifs at h
  have hs : s.slotsOwned ≤ 256 := b.slots
  have hq : s.unitsHeld ≤ 64 := b.quotas
  exact b.setCtx (by simp only [Ctx.joinQueue]; omega) (by simp only [Ctx.joinQueue]; omega)
    (by simp only [Ctx.joinQueue, List.length_append, List.length_singleton]; omega)

/-! ### The register window -/

theorem State.tryEnable_ctxs (s : State) : s.tryEnable.ctxs = s.ctxs := by
  unfold State.tryEnable
  split <;> rfl

theorem KeepsContexts.writeControl (s : State) (enable intEnable : Bool) :
    KeepsContexts s (s.writeControl enable intEnable) := by
  unfold State.writeControl
  split
  case h_1 => exact .of_same s.tryEnable_ctxs
  case h_5 | h_6 => exact .of_reset rfl
  all_goals exact .of_same rfl

theorem KeepsContexts.writeTail (s : State) (r : RingId) (v : Word) : KeepsContexts s (s.writeTail r v) := by
  unfold State.writeTail
  dsimp only
  split
  · split
    · exact .of_same rfl
    · exact (Calm.haltRing _ _ _ _ _).keepsContexts
  · exact .refl s

theorem State.writeHead_ctxs (s : State) (v : Word) : (s.writeHead v).ctxs = s.ctxs := by
  unfold State.writeHead
  split
  · split <;> rfl
  · rfl

theorem State.writeCoalesce_ctxs (s : State) (v : Word) : (s.writeCoalesce v).ctxs = s.ctxs := by
  unfold State.writeCoalesce
  dsimp only
  split <;> rfl

theorem State.writeWide_ctxs (s : State) (offset : Nat) (v : BitVec 64) : (s.writeWide offset v).ctxs = s.ctxs := by
  unfold State.writeWide
  split <;> rfl

theorem KeepsContexts.writeWord (s : State) (offset : Nat) (v : Word) : KeepsContexts s (s.writeWord offset v) := by
  unfold State.writeWord
  split
  case h_1 => exact .writeControl _ _ _
  case h_8 => exact .of_same (s.writeHead_ctxs v)
  case h_9 => exact .of_same (s.writeCoalesce_ctxs v)
  case h_12 | h_13 | h_14 | h_15 | h_16 => exact .writeTail _ _ _
  all_goals exact .of_same rfl

theorem KeepsContexts.writeWindow (s : State) (offset width : Nat) (v : BitVec 64) :
    KeepsContexts s (s.writeWindow offset width v) := by
  unfold State.writeWindow
  split
  · exact .of_same (s.writeWide_ctxs offset v)
  · split
    · exact .writeWord _ _ _
    · exact .refl s

/-! ### Reads that end -/

theorem State.pickRing_ctxs {s t : State} {r : RingId} (h : s.pickRing = some (r, t)) : t.ctxs = s.ctxs := by
  unfold State.pickRing at h
  split at h
  · cases h; rfl
  · split at h
    · cases h; rfl
    · split at h <;> cases h
      rfl

theorem KeepsContexts.dispatchRecord (s : State) (f : Fetch) (record : List Byte) :
    KeepsContexts s (s.dispatchRecord f record) := by
  unfold State.dispatchRecord
  split
  · exact (Calm.complete _ _ _ _ _ _).keepsContexts
  · exact .of_same rfl

theorem KeepsContexts.fetchData (s : State) (f : Fetch) (record : List Byte) :
    KeepsContexts s (s.fetchData f record) := by
  unfold State.fetchData
  split
  · exact (KeepsContexts.dispatchRecord _ _ _).after_same rfl
  · exact .of_same rfl

/-- A load that fails gives its slots up (R57). -/
theorem KeepsContexts.loadFailed (s : State) (c : CtxId) : KeepsContexts s (s.modCtx c Ctx.loadFailed) :=
  .setCtx (Nat.zero_le _) (Nat.le_refl _) (Nat.le_refl _)

theorem Ctx.loadDone_within (x : Ctx) (steps : List Step) : (x.loadDone steps).Within x := .of_same rfl rfl rfl

theorem KeepsContexts.failLoad (s : State) (c : CtxId) (load : Nat) (st : Status) (w0 w1 w2 : Word) :
    KeepsContexts s (s.failLoad c load st w0 w1 w2) := (KeepsContexts.loadFailed s c).handIn _

theorem KeepsContexts.loadData (s : State) (c : CtxId) (load : Nat) (data : List Byte) :
    KeepsContexts s (s.loadData c load data) := by
  unfold State.loadData
  dsimp only
  split
  · exact .failLoad _ _ _ _ _ _ _
  · split
    · exact (KeepsContexts.modCtx fun x => x.loadDone_within _).handIn _
    · exact .failLoad _ _ _ _ _ _ _

theorem KeepsContexts.fetchFails (s : State) (f : Fetch) (cause : Nat) : KeepsContexts s (s.fetchFails f cause) := by
  unfold State.fetchFails
  dsimp only
  split
  · exact (Calm.haltRing _ _ _ _ _).keepsContexts_after rfl
  · exact .of_same rfl

theorem KeepsContexts.readFails (s : State) (k : Nat) (r : OutstandingRead) (cause : Nat) :
    KeepsContexts s (s.readFails k r cause) := by
  unfold State.readFails
  dsimp only
  split
  · split
    · split
      · exact (KeepsContexts.fetchFails _ _ _).after_same rfl
      · exact .of_same rfl
    · split
      · exact (KeepsContexts.failLoad _ _ _ _ _ _ _).after_same rfl
      · exact .of_same rfl
  · exact .of_same rfl

/-! ### Owners -/

theorem Ctx.answerBehind_within (x : Ctx) (entry : Nat) (a : Answer) : (x.answerBehind entry a).Within x :=
  .of_same rfl rfl rfl

theorem KeepsContexts.finishReturn (s : State) (c : CtxId) (entry : Nat) (a : Answer) :
    KeepsContexts s (s.finishReturn c entry a) :=
  (KeepsContexts.modCtx fun x => x.answerBehind_within _ _).trans
    ((Calm.cancelUpdates _ c).trans (.handIn _ _)).keepsContexts

theorem KeepsContexts.setOutput (s : State) (e : Nat) (c : CtxId) (n : Fin 2) (kind : Byte) (code : Half) :
    KeepsContexts s (s.setOutput e c n kind code) := by
  unfold State.setOutput
  dsimp only
  split <;> exact (Calm.handIn _ _).keepsContexts_after rfl

theorem State.setChannel_ctxs (s : State) (p : ChannelParams) : (s.setChannel p).ctxs = s.ctxs := by
  unfold State.setChannel
  dsimp only
  split <;> rfl

theorem Ctx.keepStop_within (x : Ctx) (entry : Nat) : (x.keepStop entry).Within x := .of_same rfl rfl rfl

theorem Ctx.keepAbort_within (x : Ctx) (entry : Nat) : (x.keepAbort entry).Within x := .of_same rfl rfl rfl

theorem Ctx.stopEffect_within (x : Ctx) : x.stopEffect.Within x := by
  unfold Ctx.stopEffect
  split
  · exact x.stopRun_within _
  · exact x.endInArmed_within _
  · exact .refl x

theorem Ctx.abortEffect_within (x : Ctx) : x.abortEffect.Within x := by
  unfold Ctx.abortEffect
  split
  · exact x.abortArmed_within
  · exact x.abortRun_within

theorem State.giveUpPlace_ctxs (s : State) (c : CtxId) : (s.giveUpPlace c).ctxs = s.ctxs := by
  rw [State.giveUpPlace_same]

theorem KeepsContexts.abortActive (s : State) (c : CtxId) (entry : Nat) :
    KeepsContexts s (s.abortActive c entry) := by
  unfold State.abortActive
  split
  · exact .modCtx fun _ => .of_same rfl rfl rfl
  · have hmod : KeepsContexts (s.giveUpPlace c) ((s.giveUpPlace c).modCtx c fun x => x.abortEffect.keepAbort entry) :=
      .modCtx fun x => (Ctx.keepAbort_within _ _).trans x.abortEffect_within
    exact ((hmod.trans (Calm.takeBackGrant _ c).keepsContexts).settleCtx c).after_same (s.giveUpPlace_ctxs c)

theorem KeepsContexts.abortLoad (s : State) (c : CtxId) (entry : Nat) : KeepsContexts s (s.abortLoad c entry) := by
  unfold State.abortLoad
  dsimp only
  split <;> exact (KeepsContexts.loadFailed s c).handIn _

theorem KeepsContexts.wasReset (s : State) (c : CtxId) : KeepsContexts s (s.modCtx c Ctx.wasReset) :=
  .setCtx (Nat.le_refl _) (Nat.le_refl _) (Nat.zero_le _)

theorem KeepsContexts.released (s : State) (c : CtxId) : KeepsContexts s (s.modCtx c Ctx.released) :=
  .setCtx (Nat.zero_le _) (Nat.zero_le _) (Nat.zero_le _)

theorem KeepsContexts.completeCalibration (s : State) (st : Status) (w0 w1 w2 : Word) :
    KeepsContexts s (s.completeCalibration st w0 w1 w2) := by
  unfold State.completeCalibration
  split
  · exact (Calm.complete _ _ _ _ _ _).keepsContexts
  · exact .refl s

theorem KeepsContexts.entryMeasured (s : State) (k : Fin 16) (low high : Half) :
    KeepsContexts s (s.entryMeasured k low high) := by
  have harb (f : Conversion → Conversion) : KeepsContexts s (s.freeConverter.modConv f).arbitrate :=
    (Calm.arbitrate _).keepsContexts_after rfl
  unfold State.entryMeasured
  dsimp only
  split
  · exact (harb _).trans (.completeCalibration _ _ _ _ _)
  · split
    · exact .of_same rfl
    · split
      · exact harb _
      · exact (harb _).trans (.completeCalibration _ _ _ _ _)

/-! ### The Capture Engine -/

theorem Ctx.headDue_within (x : Ctx) (status : BufferStatus) : (x.headDue status).Within x := by
  unfold Ctx.headDue
  split
  · next hq => exact ⟨rfl, rfl, by simp [hq]⟩
  · exact .refl x

theorem Ctx.endWrite_within (x : Ctx) (now : Time) : (x.endWrite now).Within x := by
  unfold Ctx.endWrite
  split
  · exact .refl x
  · dsimp only
    split
    · next hq =>
      split
      · exact ⟨rfl, rfl, by simp [hq]⟩
      · exact .of_same rfl rfl rfl
    · exact .of_same rfl rfl rfl

/-- The write of a frame goes into the buffer at the head of the queue, which stays as long (R145). -/
theorem KeepsContexts.sendFrame {s : State} {c : CtxId} {b : Buffer} {behind : List Buffer}
    (hq : (s.ctx c).cap.queue = b :: behind) (staging : Bool) : KeepsContexts s (s.sendFrame c b staging) := by
  unfold State.sendFrame
  dsimp only
  split
  · exact .of_same rfl
  · split
    · next f rest _ =>
      have hset : KeepsContexts s (s.setCtx c ((s.ctx c).beginWrite f rest b (s.ctx c).cap.queue.tail)) :=
        .setCtx (Nat.le_refl _) (Nat.le_refl _) (by simp [Ctx.beginWrite, hq])
      exact hset.trans (.of_same rfl)
    · exact .refl s

theorem KeepsContexts.writeOldest (s : State) (c : CtxId) (staging : Bool) :
    KeepsContexts s (s.writeOldest c staging) := by
  unfold State.writeOldest
  dsimp only
  split
  · exact (KeepsContexts.refl s).settleCtx c
  · next b behind hq =>
    split
    · split
      · exact .refl s
      · split
        · exact (KeepsContexts.modCtx fun x => x.headDue_within _).settleCtx c
        · exact .sendFrame hq staging
    · split
      · exact (KeepsContexts.refl s).settleCtx c
      · exact .sendFrame hq staging

/-! ### Every command -/

theorem Ctx.tickCounted_within (x : Ctx) (k : Nat) :
    Ctx.Within { x with pacing := x.pacing.tickCounted k } x := .of_same rfl rfl rfl

theorem KeepsContexts.internalTick (s : State) (c : CtxId) (period : Nat) :
    KeepsContexts s (s.internalTick c period) :=
  .after_same (t := s.advanceTo _)
    (.trans (.modCtx fun x => x.tickCounted_within _) (Calm.tickContext _ _).keepsContexts) rfl

theorem KeepsContexts.fetchBegin (s : State) : ∃ t, exec .fetchBegin s = .next t ∧ KeepsContexts s t := by
  refine ⟨_, rfl, ?_⟩
  split
  · split
    · next r t hp => exact (KeepsContexts.of_same (State.pickRing_ctxs hp)).trans (.of_same rfl)
    · exact .refl s
  · exact .refl s

theorem KeepsContexts.fetchReturn (record : List Byte) (s : State) :
    ∃ t, exec (.fetchReturn record) s = .next t ∧ KeepsContexts s t := by
  refine ⟨_, rfl, ?_⟩
  split
  · split
    · split
      · split
        · exact (KeepsContexts.fetchData _ _ _).after_same rfl
        · exact .of_same rfl
      · exact .of_same rfl
    · exact .refl s
  · exact .refl s

theorem KeepsContexts.sequenceReadReturn (k : Nat) (data : List Byte) (s : State) :
    ∃ t, exec (.sequenceReadReturn k data) s = .next t ∧ KeepsContexts s t := by
  refine ⟨_, rfl, ?_⟩
  split
  · split
    · split
      · split
        · exact (KeepsContexts.loadData _ _ _ _).after_same rfl
        · exact .of_same rfl
      · exact .refl s
    · exact .refl s
  · exact .refl s

theorem KeepsContexts.abort (src : RingId) (event : CtxEvent) (s : State) :
    ∃ t, exec (.abort src event) s = .next t ∧ KeepsContexts s t := by
  refine ⟨_, rfl, .ownerTakes fun e t => ?_⟩
  split
  case h_1 | h_2 | h_3 => exact .trans (.abortActive t event.ctx e) (Calm.readBy _ _ _).keepsContexts
  case h_4 => exact .abortLoad _ _ _
  case h_5 =>
    split
    · exact (Calm.complete _ _ _ _ _ _).keepsContexts
    · exact (KeepsContexts.modCtx fun x => (Ctx.answerBehind_within _ _ _).trans x.returnQueue_within).settleCtx _
  all_goals exact (Calm.complete _ _ _ _ _ _).keepsContexts

theorem KeepsContexts.pulse (src : RingId) (event : CtxEvent) (s : State) :
    ∃ t, exec (.pulse src event) s = .next t ∧ KeepsContexts s t := by
  refine ⟨_, rfl, .ownerTakes fun e t => ?_⟩
  dsimp only
  split
  · have htick : Calm t (if (t.ctx event.ctx).takesPulse then t.deliverTick event.ctx else (t, .notTaken)).1 := by
      split
      · exact .deliverTick _ _
      · exact .refl t
    exact (((htick.trans (.handIn _ _)).trans (.settleCtx _ _)).trans (.readBy _ _ _)).keepsContexts
  · exact (Calm.complete _ _ _ _ _ _).keepsContexts

/-- Every command leads to a next state, and keeps the contexts within what the part has to give. -/
theorem exec_keepsContexts (i : Instr) (s : State) : ∃ t, exec i s = .next t ∧ KeepsContexts s t := by
  cases i
  case powerOn | linkReset => exact ⟨_, rfl, .of_reset rfl⟩
  case enable | softReset => exact ⟨_, rfl, .hostAccess (.writeControl _ _ _)⟩
  case intEnable => exact ⟨_, rfl, .hostAccess (.of_same rfl)⟩
  case submitTail => exact ⟨_, rfl, .hostAccess (.writeTail _ _ _)⟩
  case cplHead => exact ⟨_, rfl, .hostAccess (.of_same (s.writeHead_ctxs _))⟩
  case intCoalesce => exact ⟨_, rfl, .hostAccess (.of_same (s.writeCoalesce_ctxs _))⟩
  case registerWrite => exact ⟨_, rfl, .hostAccess (.writeWindow _ _ _ _)⟩
  case intCauseRead | endpointConfigurationWrite => exact ⟨_, rfl, .hostAccess (.of_same rfl)⟩
  case fetchBegin => exact KeepsContexts.fetchBegin s
  case fetchReturn => exact KeepsContexts.fetchReturn _ s
  case sequenceReadReturn => exact KeepsContexts.sequenceReadReturn _ _ s
  case abort => exact KeepsContexts.abort _ _ s
  case pulse => exact KeepsContexts.pulse _ _ s
  case report => exact ⟨_, rfl, .ownerTakes fun e t => .of_same rfl⟩
  all_goals refine ⟨_, rfl, ?_⟩
  -- The commands that give a context more: their checks leave room for it.
  case loadSequence =>
    refine .ownerTakes fun e t => ?_
    split
    · exact (KeepsContexts.refl t).handIn _
    · next h => exact .trans (.loading h e) (.of_same rfl)
  case defineContext =>
    refine .ownerTakes fun e t => ?_
    split
    · exact (KeepsContexts.refl t).handIn _
    · next h => exact (KeepsContexts.defined h).handIn _
  case postBuffer =>
    refine .ownerTakes fun e t => ?_
    split
    · exact (KeepsContexts.refl t).handIn _
    · next h => exact (KeepsContexts.joinQueue h _).handIn _
  -- Owners of other tables: what they change is no context, and then they hand in.
  case createRing | deleteRing | rearmLimit | setLines | setCounter =>
    refine .ownerTakes fun e t => ?_
    split
    · exact (KeepsContexts.refl t).handIn _
    · exact (Calm.handIn _ _).keepsContexts_after rfl
  case barrier =>
    refine .ownerTakes fun e t => ?_
    split
    · exact .of_same rfl
    · exact (KeepsContexts.refl t).handIn _
  case setChannel p =>
    refine .ownerTakes fun e t => ?_
    split
    · exact (KeepsContexts.refl t).handIn _
    · exact (KeepsContexts.of_same (t.setChannel_ctxs p)).handIn _
  case setOutput =>
    refine .ownerTakes fun e t => ?_
    split
    · exact (KeepsContexts.refl t).handIn _
    · exact .setOutput _ _ _ _ _ _
  case calibrate =>
    refine .ownerTakes fun e t => ?_
    split
    · exact (KeepsContexts.refl t).handIn _
    · split
      · exact (KeepsContexts.refl t).handIn _
      · exact (Calm.arbitrate _).keepsContexts_after rfl
  -- Commands of a run: the context holds as much as before, or less.
  case arm ctx =>
    refine .ownerTakes fun e t => ?_
    split
    · exact (KeepsContexts.refl t).handIn _
    · have harmed : KeepsContexts t (t.modCtx ctx (·.armedBy e t.timeBase)) := .modCtx fun _ => .of_same rfl rfl rfl
      dsimp only
      split
      · exact harmed.trans (Calm.takeTrigger _ _).keepsContexts
      · exact harmed
  case stop =>
    refine .ownerTakes fun e t => ?_
    split
    · exact (KeepsContexts.modCtx fun x => (Ctx.stopEffect_within _).trans (x.keepStop_within e)).settleCtx _
    · exact (KeepsContexts.refl t).handIn _
  case resetContext =>
    refine .ownerTakes fun e t => ?_
    dsimp only
    split
    case h_1 | h_2 | h_3 => exact .trans (.wasReset t _) (.finishReturn _ _ _ _)
    all_goals exact (KeepsContexts.refl t).handIn _
  case releaseContext =>
    refine .ownerTakes fun e t => ?_
    dsimp only
    split
    case h_2 | h_3 | h_4 => exact .trans (.released t _) (.finishReturn _ _ _ _)
    all_goals exact (KeepsContexts.refl t).handIn _
  -- Events: each has its condition, and without it changes nothing.
  case reportWriteDone =>
    split
    · exact (Calm.handIn _ _).keepsContexts_after rfl
    · exact .refl s
  case readErrorCompletion =>
    split
    · split
      · exact .readFails _ _ _ _
      · exact .refl s
    · exact .refl s
  case readTimeout =>
    split
    · exact (KeepsContexts.readFails (s.advanceTo _) _ _ _).after_same (s.advanceTo_ctxs _)
    · exact .refl s
  case calEntryMeasured =>
    split
    · exact .entryMeasured _ _ _ _
    · exact .refl s
  case calStoreDone =>
    split
    · exact (KeepsContexts.completeCalibration (s.modConv _) _ _ _ _).after_same (s.modConv_ctxs _)
    · exact .refl s
  case lineEdge =>
    split
    · exact ((Calm.handEdge _ _ _ _).trans (.readBy _ _ _)).keepsContexts_after rfl
    · exact .of_same rfl
  case internalTick =>
    split
    · split
      · exact .refl s
      · exact .trans (.internalTick s _ _) (Calm.readBy _ _ _).keepsContexts
    · exact .refl s
  case slotEnd =>
    split
    · exact (((Calm.handSample _ _ _ _).trans (.endSlot _ _)).trans (.readBy _ _ _)).keepsContexts_after rfl
    · exact .refl s
  case triggerTimeout =>
    split
    · exact ((KeepsContexts.modCtx (s := s.advanceTo _) fun x => x.endInArmed_within _).settleCtx _).after_same rfl
    · exact .refl s
  case flushTimer =>
    split
    · exact ((KeepsContexts.modCtx (s := s.advanceTo _) fun x => x.headDue_within _).settleCtx _).after_same rfl
    · exact .refl s
  case frameWriteBegin =>
    split
    · exact .writeOldest _ _ _
    · exact .refl s
  case frameWriteEnd =>
    split
    · split
      · exact ((KeepsContexts.modCtx (s := s.modBus _) fun x => x.endWrite_within _).settleCtx _).after_same rfl
      · exact .of_same rfl
    · exact .refl s
  case claimantHandedIn =>
    split
    · split
      · next h => exact ((Calm.joinClaim (s := s.dropClaimant) h.2 _).trans (.handIn _ _)).keepsContexts_after rfl
      · exact .refl s
    · exact .refl s
  case completionWriteDone =>
    split
    · dsimp only
      split <;> exact .of_same rfl
    · exact .refl s
  case linkReturn | eventPulseEnd => split <;> exact .of_same rfl
  case linkLoss | completionWriteBegin | firstUnsignalledDeadline | busTransferSend =>
    split
    · split <;> exact .of_same rfl
    · exact .refl s

/-- Settles O59. A context is given slots, units or a buffer by LOAD_SEQUENCE, DEFINE_CONTEXT and POST_BUFFER alone, after
the checks of R49, R63 and R143. -/
theorem stepKeepsContextBounds : Obligations.StepKeepsContextBounds := by
  intro s t hs h
  unfold step at h
  split at h
  · cases h
    exact hs.congr rfl
  · next i rest _ =>
    obtain ⟨u, hu, hk⟩ := exec_keepsContexts i { s with pending := rest }
    cases hu.symm.trans h
    exact hk.bounds (hs.congr rfl)

end Sys2Proof.Machine
end

section
/-!
PROOFS. Loads: LOAD_SEQUENCE by its checks, the step list validated, and every end of a load.
-/

namespace Sys2Proof.Machine

open Sys2Proof

-- One thread at a time: each thread of a parallel proof reserves 1 GiB of the check's memory limit.
set_option Elab.async false

/-! ### LOAD_SEQUENCE -/

/-- A number carried in 16 bits, as a value word. -/
theorem word_toNat (n : Half) : word n.toNat = n.setWidth 32 :=
  BitVec.ofNat_toNat ..

/-- Settles O28: the checks of R49 stand in the order of the statement; past them the slots are reserved and the read
asked for. -/
theorem loadSequenceByItsChecks : Obligations.LoadSequenceByItsChecks := by
  intro s src c count address p h u x free refused
  have hexec : exec (.loadSequence src c count address) s = .next (match u.loadFault c count with
      | some a => u.handIn [.command p.age a]
      | none => (u.modCtx c (·.loading count.toNat p.age)).askSteps c p.age count.toNat address) :=
    congrArg Host.Outcome.next (h.ownerTakes _)
  have hfault : u.loadFault c count = refused := by
    simp only [State.loadFault, word_toNat]
    rfl
  refine ⟨fun a ha => ?_, fun hnone => ?_⟩
  · rw [hfault, ha] at hexec
    exact h.completes hexec rfl rfl rfl rfl
  · rw [hfault, hnone] at hexec
    exact hexec

/-! ### The step list -/

/-- The number of the first of seven checks that fails. -/
theorem firstFailing_seven (a b c d e f g : Bool) :
    ([a, b, c, d, e, f, g].findIdx? (· == false)).map (· + 1) =
      if a = false then some 1 else if b = false then some 2 else if c = false then some 3
      else if d = false then some 4 else if e = false then some 5 else if f = false then some 6
      else if g = false then some 7 else none := by
  simp only [List.findIdx?_cons, List.findIdx?_nil, beq_iff_eq]
  split_ifs <;> rfl

/-- An input is the partner of a DIFF channel (R29). -/
theorem State.isPartner_iff (s : State) (input : Nat) :
    s.isPartner input = true ↔
      ∃ n < 16, input = n + 16 ∧ s.chans.toList[n]?.map (fun ch => ch.mode) = some .diff := by
  have hchan (n : ChanId) : s.chans.toList[n.val]? = some (s.chan n) := by simp [State.chan]
  simp only [State.isPartner, List.any_eq_true, List.mem_finRange, true_and, Bool.and_eq_true, beq_iff_eq,
    decide_eq_true_eq]
  constructor
  · rintro ⟨n, ⟨hin, hlt⟩, hm⟩
    exact ⟨n.val, hlt, hin.symm, by rw [hchan, Option.map_some, hm]⟩
  · rintro ⟨n, hlt, hin, hm⟩
    have hn := hchan ⟨n, by omega⟩
    exact ⟨⟨n, by omega⟩, ⟨hin.symm, hlt⟩, by simpa [hn] using hm⟩

/-- The reason code of a step is the number of the first of the seven checks of R54 that it fails. -/
theorem State.stepFault_eq (s : State) (r : RawStep) :
    s.stepFault r = (List.findIdx? (· == false)
      [ decide (r.input.toNat ≤ 34),
        r.gain.toNat ≤ 7 || r.gain.toNat == 15,
        !(r.input.toNat == 32 || r.input.toNat == 33 || r.input.toNat == 34) || r.gain.toNat == 15,
        r.settle.toNat ≤ 7,
        1 ≤ r.reps.toNat && r.reps.toNat ≤ 16,
        r.reserved == 0,
        (List.range 16).all fun n =>
          !(r.input.toNat == n + 16 && (s.chans.toList[n]?.map fun ch => ch.mode) == some .diff) ]).map (· + 1) := by
  have hinput : decide (r.input.toNat ≤ 34) = false ↔ 34 < r.input.toNat := by simp
  have hgain : (r.gain.toNat ≤ 7 || r.gain.toNat == 15) = false ↔ 7 < r.gain.toNat ∧ r.gain.toNat ≠ 15 := by simp
  have hpseudo (h : ¬34 < r.input.toNat) :
      (!(r.input.toNat == 32 || r.input.toNat == 33 || r.input.toNat == 34) || r.gain.toNat == 15) = false ↔
        32 ≤ r.input.toNat ∧ r.gain.toNat ≠ 15 := by simp; omega
  have hsettle : decide (r.settle.toNat ≤ 7) = false ↔ 7 < r.settle.toNat := by simp
  have hreps : (1 ≤ r.reps.toNat && r.reps.toNat ≤ 16) = false ↔ r.reps.toNat < 1 ∨ 16 < r.reps.toNat := by
    simp; omega
  have hreserved : (r.reserved == 0) = false ↔ r.reserved ≠ 0 := by simp
  have hpartner : ((List.range 16).all fun n =>
      !(r.input.toNat == n + 16 && (s.chans.toList[n]?.map fun ch => ch.mode) == some .diff)) = false ↔
        s.isPartner r.input.toNat = true := by
    rw [State.isPartner_iff, List.all_eq_false]
    simp
  rw [firstFailing_seven]
  simp only [hinput, hgain, hsettle, hreps, hreserved, hpartner, State.stepFault]
  by_cases h : 34 < r.input.toNat
  · rw [if_pos h, if_pos h]
  · simp only [hpseudo h]

/-- A list of steps that all pass has no first bad step. -/
theorem State.firstBadStep_none {s : State} {raw : List RawStep} (h : ∀ r ∈ raw, s.stepFault r = none) (i : Nat) :
    s.firstBadStep i raw = none := by
  induction raw generalizing i with
  | nil => rfl
  | cons r rest ih =>
    simp only [State.firstBadStep, h r (List.mem_cons_self ..)]
    exact ih (fun r' hr' => h r' (List.mem_cons_of_mem _ hr')) _

/-- The first bad step, counted from `i`. -/
theorem State.firstBadStep_some {s : State} {raw : List RawStep} {k : Nat} {r : RawStep} {reason : Nat}
    (hr : raw[k]? = some r) (hbad : s.stepFault r = some reason)
    (hgood : ∀ j < k, ∀ r', raw[j]? = some r' → s.stepFault r' = none) (i : Nat) :
    s.firstBadStep i raw = some (i + k, reason) := by
  induction raw generalizing i k with
  | nil => cases hr
  | cons r' rest ih =>
    cases k with
    | zero =>
      cases hr
      simp only [State.firstBadStep, hbad, Nat.add_zero]
    | succ k =>
      simp only [State.firstBadStep, hgood 0 (Nat.succ_pos k) r' rfl]
      rw [ih hr (fun j hj r'' hr'' => hgood (j + 1) (Nat.succ_lt_succ hj) r'' hr'') (i + 1)]
      congr 2
      omega

/-! ### The end of a load -/

/-- The data of a load in flight is validated at once (R54). -/
theorem exec_sequenceReadReturn_live {s : State} {k : Nat} {q : OutstandingRead} {c : CtxId} {load : Nat}
    {data : List Byte} (hq : s.readAt k = some q) (hkind : q.request.kind = .steps c load)
    (hlen : data.length = q.request.length) (hop : s.link.operating = true) (hlive : s.loadLive c load = true) :
    exec (.sequenceReadReturn k data) s = .next ((s.endRead k).loadData c load data) := by
  simp [exec, execSequenceReadReturn, hq, hkind, hlen, hop, hlive]

/-- The read of a load in flight fails, and the load with it (R52, R190). -/
theorem State.readFails_live {s : State} {q : OutstandingRead} {c : CtxId} {load : Nat}
    (hkind : q.request.kind = .steps c load) (hd : s.link.device = .online) (hload : (s.ctx c).load = some load)
    (k cause : Nat) : s.readFails k q cause = (s.endRead k).failLoad c load .fetchError 0 (word cause) 0 := by
  simp [State.readFails, State.loadLive, hd, hkind, hload]

/-- The read of a load that has ended already fails, and is only forgotten (R58). -/
theorem State.readFails_dead {s : State} {q : OutstandingRead} {c : CtxId} {load : Nat}
    (hkind : q.request.kind = .steps c load) (hload : (s.ctx c).load ≠ some load) (k cause : Nat) :
    s.readFails k q cause = s.endRead k := by
  simp [State.readFails, State.loadLive, hkind, hload]

/-- A load that fails is answered, and its context is DEFINED with no slots and no steps (R57). -/
theorem State.failLoad_answered {s : State} {p : PendingEntry} (hp : s.entry? p.age = some p) (c : CtxId) (st : Status)
    (w0 w1 w2 : Word) :
    Answered s (s.failLoad c p.age st w0 w1 w2) p (answer st w0 w1 w2) ∧
      (s.failLoad c p.age st w0 w1 w2).apart =
        (s.setCtx c { s.ctx c with state := .defined, slots := 0, steps := [], load := none }).apart :=
  State.handIn_answered (s := s.modCtx c Ctx.loadFailed) hp (answer st w0 w1 w2)

/-- A step list with a bad step fails the load with the first one's index and reason (R54, R55). -/
theorem State.loadData_bad {s : State} {data : List Byte} {i : Nat} {r : RawStep} {reason : Nat}
    (hr : (rawStepsOf (data.length / 8) data)[i]? = some r) (hbad : s.stepFault r = some reason)
    (hgood : ∀ j < i, ∀ r', (rawStepsOf (data.length / 8) data)[j]? = some r' → s.stepFault r' = none)
    (c : CtxId) (load : Nat) :
    s.loadData c load data = s.failLoad c load .badStep (word i) (word reason) 0 := by
  simp only [State.loadData, State.firstBadStep_some hr hbad hgood, Nat.zero_add]

/-- A step list of good steps whose frames the quota does not hold fails the load (R56). -/
theorem State.loadData_short {s : State} {data : List Byte} {c : CtxId} {steps : List Step} {size : Nat}
    (hsteps : (rawStepsOf (data.length / 8) data).map RawStep.kept = steps)
    (hsize : frameBytes (s.ctx c).definition.format (scanPositions steps) = size)
    (hgood : ∀ r ∈ rawStepsOf (data.length / 8) data, s.stepFault r = none)
    (hshort : ¬((s.ctx c).definition.depth + 1) * size ≤ 512 * (s.ctx c).cap.quota) (load : Nat) :
    s.loadData c load data = s.failLoad c load .stagingShort (word (scanPositions steps)) (word size)
      (word (512 * (s.ctx c).cap.quota)) := by
  simp [State.loadData, State.firstBadStep_none hgood, quotaHolds, hsteps, hsize, hshort]

/-- A step list of good steps whose frames the quota holds: the load is answered, and its context is READY with the steps
(R56). -/
theorem State.loadData_done {s : State} {data : List Byte} {c : CtxId} {steps : List Step} {size : Nat}
    (hsteps : (rawStepsOf (data.length / 8) data).map RawStep.kept = steps)
    (hsize : frameBytes (s.ctx c).definition.format (scanPositions steps) = size)
    (hgood : ∀ r ∈ rawStepsOf (data.length / 8) data, s.stepFault r = none)
    (henough : ((s.ctx c).definition.depth + 1) * size ≤ 512 * (s.ctx c).cap.quota) {p : PendingEntry}
    (hp : s.entry? p.age = some p) :
    Answered s (s.loadData c p.age data) p (answer .ok (word (scanPositions steps)) (word (2 * scanPositions steps))
        (word ((16 + 2 * scanPositions steps + 7) / 8 * 8))) ∧
      (s.loadData c p.age data).apart =
        (s.setCtx c { s.ctx c with state := .ready, steps := steps, load := none }).apart := by
  have hload : s.loadData c p.age data = (s.modCtx c (·.loadDone steps)).complete p.age .ok (word (scanPositions steps))
      (word (frameBytes .packed (scanPositions steps))) (word (frameBytes .framed (scanPositions steps))) := by
    simp [State.loadData, State.firstBadStep_none hgood, quotaHolds, hsteps, hsize, henough]
  rw [hload]
  exact State.handIn_answered (s := s.modCtx c (·.loadDone steps)) hp _

/-! ### A step list read that times out -/

section

variable {s : State} {k : Nat} {q : OutstandingRead} {c : CtxId} {now : Time}

/-- The state in which read number `k` has ended at an instant. -/
def State.forgotAt (s : State) (k : Nat) (now : Time) : State :=
  { s with
    timeBase := now
    link := { s.link with bus := { s.link.bus with outstanding := s.link.bus.outstanding.eraseIdx k } } }

/-- READ_TIMEOUT of an outstanding read, the instant it happens at given a name (R190, log 3). -/
theorem exec_readTimeout_at (hq : s.readAt k = some q)
    (hnow : (if (q.sentAt + 500000).toNat ≤ s.timeBase.toNat then s.timeBase else q.sentAt + 500000) = now) :
    exec (.readTimeout k) s = .next (State.readFails { s with timeBase := now } k q 2) := by
  rw [exec_readTimeout hq, State.advanceTo_eq, hnow]

/-- The read of a load in flight times out, and the load fails with it (R52, R190). -/
theorem exec_readTimeout_live {p : PendingEntry} (hq : s.readAt k = some q) (hkind : q.request.kind = .steps c p.age)
    (hd : s.link.device = .online) (hload : (s.ctx c).load = some p.age) (hp : s.entry? p.age = some p)
    (hnow : (if (q.sentAt + 500000).toNat ≤ s.timeBase.toNat then s.timeBase else q.sentAt + 500000) = now) :
    ∃ t, exec (.readTimeout k) s = .next t ∧ Answered (s.forgotAt k now) t p (answer .fetchError 0 2 0) ∧
      t.apart = ((s.forgotAt k now).setCtx c
        { s.ctx c with state := .defined, slots := 0, steps := [], load := none }).apart := by
  refine ⟨_, exec_readTimeout_at hq hnow, ?_⟩
  rw [State.readFails_live (s := { s with timeBase := now }) hkind hd hload]
  exact State.failLoad_answered (s := s.forgotAt k now) hp c _ _ _ _

/-- The read of a load that has ended already times out, and is only forgotten (R58). -/
theorem exec_readTimeout_dead {load : Nat} (hq : s.readAt k = some q) (hkind : q.request.kind = .steps c load)
    (hload : (s.ctx c).load ≠ some load)
    (hnow : (if (q.sentAt + 500000).toNat ≤ s.timeBase.toNat then s.timeBase else q.sentAt + 500000) = now) :
    exec (.readTimeout k) s = .next (s.forgotAt k now) := by
  rw [exec_readTimeout_at hq hnow, State.readFails_dead (s := { s with timeBase := now }) hkind hload]
  rfl

end

/-- Settles O19: the checks of a step; the read of a load in flight by what came of it; and that of an ended load, with
which nothing else is done. -/
theorem loadEndsWithItsRead : Obligations.LoadEndsWithItsRead := by
  refine ⟨fun s r => s.stepFault_eq r, ?_, ?_⟩
  · intro s k q c p data hq hkind hd hop hload hp hlen x raw good steps positions framed size enough base failed late
    have hexec : exec (.sequenceReadReturn k data) s = .next (base.loadData c p.age data) :=
      exec_sequenceReadReturn_live hq hkind hlen hop (by simp [State.loadLive, hd, hload])
    have hsize : frameBytes x.definition.format positions = size := rfl
    refine ⟨fun hgood henough => ?_, fun hgood hshort => ?_, fun i r reason hr hbad hbefore => ?_, ?_, ?_⟩
    · exact ⟨_, hexec, State.loadData_done (s := base) (steps := steps) rfl hsize hgood henough hp⟩
    · rw [State.loadData_short (s := base) (steps := steps) rfl hsize hgood hshort] at hexec
      exact ⟨_, hexec, State.failLoad_answered (s := base) hp c _ _ _ _⟩
    · rw [State.loadData_bad (s := base) hr hbad hbefore] at hexec
      exact ⟨_, hexec, State.failLoad_answered (s := base) hp c _ _ _ _⟩
    · have hfails : s.readFails k q 1 = base.failLoad c p.age .fetchError 0 1 0 :=
        State.readFails_live hkind hd hload k 1
      exact ⟨_, hfails ▸ exec_readErrorCompletion hq hop, State.failLoad_answered (s := base) hp c _ _ _ _⟩
    · exact exec_readTimeout_live hq hkind hd hload hp rfl
  · intro s k q c load data hq hkind hd hop hload hlen forgotten
    refine ⟨exec_sequenceReadReturn_dead hq hkind hlen hop (by simp [State.loadLive, hload]), ?_,
      exec_readTimeout_dead hq hkind hload rfl⟩
    rw [exec_readErrorCompletion hq hop, State.readFails_dead hkind hload]
    rfl

end Sys2Proof.Machine
end

section
/-!
PROOFS. ABORT by the state it finds: the run it ends, the load it ends, and the buffers it returns.
-/

namespace Sys2Proof.Machine

open Sys2Proof

-- One thread at a time: each thread of a parallel proof reserves 1 GiB of the check's memory limit.
set_option Elab.async false

/-! ### A run that is aborted -/

/-- What a context hands in next is its ARM completion. -/
def NextHandIn.isArm (next : Option NextHandIn) : Bool :=
  match next with
  | some (.armAnswer _ _) => true
  | _ => false

/-- Everything the giving up of a place does (R80, log 23). -/
theorem State.giveUpPlace_eq (s : State) (c : CtxId) :
    s.giveUpPlace c =
      if NextHandIn.isArm ((s.ctx c).nextHandIn (s.holdsConverter c)) then
        { s with cpl := { s.cpl with claimants := s.cpl.claimants.filter (· != .context c) } }
      else s := by
  unfold State.giveUpPlace
  generalize (s.ctx c).nextHandIn (s.holdsConverter c) = next
  rcases next with _ | (_ | _ | _ | _) <;> rfl

theorem State.giveUpPlace_conv (s : State) (c : CtxId) : (s.giveUpPlace c).conv = s.conv := by
  rw [State.giveUpPlace_same]

/-- A grant taken back once the context's record has become `x` (R121). -/
theorem State.takeBackGrant_setCtx (s : State) (c : CtxId) (x : Ctx) :
    (s.setCtx c x).takeBackGrant c =
      if s.holdsConverter c then
        State.arbitrate { s.setCtx c { x with pacing := { x.pacing with tick := .free } } with
          conv := { s.conv with holder := .none } }
      else s.setCtx c x := by
  have hfree : (s.setCtx c x).freeConverter.modCtx c Ctx.freeTick =
      { s.setCtx c { x with pacing := { x.pacing with tick := .free } } with
        conv := { s.conv with holder := .none } } := by
    simp [State.modCtx, State.freeConverter, State.setCtx, State.ctx, Ctx.freeTick]
  simp only [State.takeBackGrant, State.holdsConverter_setCtx, hfree]

/-- The first ABORT of a run: the context's record becomes `y`, and a grant held is taken back (R82, R83, R121). -/
theorem State.abortActive_first {s v : State} {c : CtxId} {entry : Nat} {y : Ctx}
    (hend : (s.ctx c).run.endReason ≠ some .aborted) (hv : s.giveUpPlace c = v)
    (hy : (s.ctx c).abortEffect.keepAbort entry = y) :
    s.abortActive c entry =
      (if s.holdsConverter c then
        State.arbitrate { v.setCtx c { y with pacing := { y.pacing with tick := .free } } with
          conv := { s.conv with holder := .none } }
      else v.setCtx c y).settleCtx c := by
  have hctx : v.ctx c = s.ctx c := State.ctx_congr (hv ▸ s.giveUpPlace_ctxs c) c
  have hconv : v.conv = s.conv := hv ▸ s.giveUpPlace_conv c
  have hholds : v.holdsConverter c = s.holdsConverter c := by simp only [State.holdsConverter, hconv]
  rw [State.abortActive, if_neg hend, hv, State.modCtx, hctx, hy, State.takeBackGrant_setCtx, hholds, hconv]

theorem Ctx.abortEffect_armed {x : Ctx} (h : x.state = .armed) : x.abortEffect = x.abortArmed := by
  simp only [Ctx.abortEffect, h]

theorem Ctx.abortEffect_run {x : Ctx} (h : x.state = .running ∨ x.state = .stopping) : x.abortEffect = x.abortRun := by
  rcases h with h | h <;> simp only [Ctx.abortEffect, h]

/-- An ABORT that finds its run ABORTED already makes no reading: no slot and no scan begins with it. -/
theorem State.keepAbort_readBy (s : State) (src : RingId) (c : CtxId) (entry : Nat) (r : ReadOrder) :
    ((s.takeDispatched src).modCtx c (·.keepAbort entry)).readBy s r =
      (s.takeDispatched src).modCtx c (·.keepAbort entry) := by
  refine State.readBy_same r rfl fun d => ?_
  rw [State.ctx_modCtx]
  split
  · next hd => exact hd ▸ id
  · exact id

/-- What ABORT does in each state of its context (R58, R81 to R83). -/
theorem Taken.exec_abort {s : State} {src : RingId} {c : CtxId} {p : PendingEntry} (h : Taken s src (.abort c) p)
    (read : ReadOrder) :
    ((s.ctx c).state ∈ [.armed, .running, .stopping] →
      exec (.abort src ⟨c, read⟩) s = .next (((s.takeDispatched src).abortActive c p.age).readBy s read)) ∧
    ((s.ctx c).state = .loading →
      exec (.abort src ⟨c, read⟩) s = .next ((s.takeDispatched src).abortLoad c p.age)) ∧
    ((s.ctx c).state = .ready → (s.ctx c).cap.queue = [] →
      exec (.abort src ⟨c, read⟩) s = .next ((s.takeDispatched src).complete p.age .ok 0 0 0)) ∧
    ((s.ctx c).state = .ready → (s.ctx c).cap.queue ≠ [] →
      exec (.abort src ⟨c, read⟩) s = .next (((s.takeDispatched src).modCtx c fun x =>
        x.returnQueue.answerBehind p.age (answer .ok 0 0 0)).settleCtx c)) ∧
    ((s.ctx c).state ∈ [.unbound, .defined, .halted] →
      exec (.abort src ⟨c, read⟩) s = .next ((s.takeDispatched src).complete p.age .badState 0 0 0)) := by
  simp only [exec, execAbort, h.ownerTakes, State.ctx_takeDispatched, List.mem_cons, List.not_mem_nil, or_false]
  refine ⟨?_, fun hst => ?_, fun hst hq => ?_, fun hst hq => ?_, ?_⟩
  · rintro (hst | hst | hst) <;> simp only [hst]
  · simp only [hst]
  · simp only [hst, hq, if_true]
  · simp only [hst, hq, if_false]
  · rintro (hst | hst | hst) <;> simp only [hst]

/-- Settles O33, by the state the ABORT finds and whether its run has been aborted before. -/
theorem abortByTheStateItFinds : Obligations.AbortByTheStateItFinds := by
  intro s src c read p h u x kept run cap armWaits v back
  obtain ⟨hactive, hloading, hempty, hqueue, helse⟩ := h.exec_abort read
  have hv : u.giveUpPlace c = v := u.giveUpPlace_eq c
  have hfirst {y : Ctx} (hst : x.state ∈ [.armed, .running, .stopping]) (hend : x.run.endReason ≠ some .aborted)
      (hy : x.abortEffect.keepAbort p.age = y) :
      exec (.abort src ⟨c, read⟩) s = .next (readInOrder read s ((back y).settleCtx c)) := by
    rw [hactive hst, State.readBy_eq, State.abortActive_first (s := u) hend hv hy]
    rfl
  refine ⟨fun hst hend => hfirst ?_ hend ?_, fun hst hend => hfirst ?_ hend ?_, fun hst hend => ?_,
    fun load hst hload => ?_, fun hst hq => ?_, fun hst hq => ?_, fun hst => ?_⟩
  · rcases hst with hst | hst <;> simp [hst]
  · rw [Ctx.abortEffect_run hst]
    rfl
  · simp [hst]
  · rw [Ctx.abortEffect_armed hst]
    rfl
  · have hkept : u.abortActive c p.age = u.modCtx c (·.keepAbort p.age) := if_pos hend
    rw [hactive hst, hkept, State.keepAbort_readBy]
    rfl
  · have hended : u.abortLoad c p.age = (u.modCtx c Ctx.loadFailed).handIn
        [.command load (answer .aborted 0 0 0), .command p.age (answer .ok 0 0 0)] := by
      simp only [State.abortLoad, show (u.ctx c).load = some load from hload]
    rw [hloading hst, hended]
    rfl
  · exact h.completes (hempty hst hq) rfl rfl rfl rfl
  · exact hqueue hst hq
  · exact h.completes (helse hst) rfl rfl rfl rfl

end Sys2Proof.Machine
end

section
/-!
PROOFS. DEFINE_CONTEXT: the twelve checks of its fields, the checks of its context, and the definition stored.
-/

namespace Sys2Proof.Machine

open Sys2Proof

-- One thread at a time: each thread of a parallel proof reserves 1 GiB of the check's memory limit.
set_option Elab.async false

/-! ### DEFINE_CONTEXT: its fields -/

/-- The line that a byte carries (R197). -/
theorem lineOf_ofNat (l : LineId) : lineOf (BitVec.ofNat 8 l.val) = l := by
  ext
  simp [lineOf]

/-- The edge that a byte carries (R197). -/
theorem edgeOf_code (e : Edge) : edgeOf (match e with
    | .rising => 1
    | .falling => 2) = e := by
  cases e <;> rfl

/-- The channel that a byte carries (R197). -/
theorem chanOf_ofNat (n : ChanId) : Fin.ofNat 32 (BitVec.ofNat 8 n.val).toNat = n := by
  ext
  simp only [Fin.val_ofNat, BitVec.toNat_ofNat]
  omega

section

variable {q : DefineParams} {l : LineId} {e : Edge}

theorem definitionOf_sourceLine (h : q.source = 1) (hl : lineOf q.paceLine = l) (he : edgeOf q.paceEdge = e) :
    (definitionOf q).source = .line l e := by
  simp [definitionOf, h, hl, he]

theorem definitionOf_startLine (h : q.start = 1) (hl : lineOf q.startLine = l) (he : edgeOf q.startEdge = e) :
    (definitionOf q).start = .line l e := by
  simp [definitionOf, h, hl, he]

theorem definitionOf_startLimit {n : ChanId} {dir : Direction} (h : q.start = 2)
    (hn : Fin.ofNat 32 q.startLine.toNat = n) (hd : directionOf q.startEdge = dir) :
    (definitionOf q).start = .limit n dir := by
  simp only [definitionOf, h, hn, hd]
  rfl

theorem definitionOf_stopLine (h : q.stop = 1) (hl : lineOf q.stopLine = l) (he : edgeOf q.stopEdge = e) :
    (definitionOf q).stop = .line l e := by
  simp [definitionOf, h, hl, he]

end

/-- The number of the first check that fails, the checks numbered from `k`. -/
theorem firstFailing_cons (b : Bool) (bs : List Bool) (k : Nat) :
    ((b :: bs).findIdx? (· == false)).map (· + k) =
      if b = false then some k else (bs.findIdx? (· == false)).map (· + (k + 1)) := by
  rw [List.findIdx?_cons]
  cases b with
  | false => simp
  | true => simp [Function.comp_def, Nat.add_assoc, Nat.add_comm 1]

theorem firstFailing_nil (k : Nat) : (List.findIdx? (· == false) []).map (· + k) = none := rfl

/-- A byte that is none of 0, 1 and 2. -/
theorem two_lt_toNat_iff (b : Byte) : 2 < b.toNat ↔ b ≠ 0 ∧ b ≠ 1 ∧ b ≠ 2 := by
  bv_omega

/-- The number a field refusal carries is that of the first of the twelve checks of R62 that fails. -/
theorem defineFault_eq (q : DefineParams) :
    let edge (b : Byte) : Bool := b == 1 || b == 2
    let line (b : Byte) : Bool := b.toNat < 16
    defineFault q = (List.findIdx? (· == false)
      [ decide (q.priority.toNat ≤ 3),
        q.mode == 0 || q.mode == 1,
        q.source == 0 || q.source == 1 || q.source == 2,
        q.source != 0 || 20 ≤ q.period.toNat,
        q.source != 1 || (line q.paceLine && edge q.paceEdge),
        q.start == 0 || q.start == 1 || q.start == 2,
        (q.start != 1 || (line q.startLine && edge q.startEdge)) &&
          (q.start != 2 || (q.startLine.toNat < 32 && (edge q.startEdge || q.startEdge == 3))),
        (q.stop == 0 || q.stop == 1) && (q.stop != 1 || (line q.stopLine && edge q.stopEdge)),
        true,
        (q.bufferPolicy == 0 || q.bufferPolicy == 1) && (q.slipPolicy == 0 || q.slipPolicy == 1) &&
          (q.format == 0 || q.format == 1),
        1 ≤ q.quota.toNat && q.quota.toNat ≤ 32,
        (q.source == 0 || q.period == 0) && (q.source == 1 || (q.paceLine == 0 && q.paceEdge == 0)) &&
          (q.start != 0 || (q.startLine == 0 && q.startEdge == 0)) &&
          (q.stop != 0 || (q.stopLine == 0 && q.stopEdge == 0)) ]).map (· + 1) := by
  intro edge line
  have hdepth : ¬255 < q.depth.toNat := by omega
  have hdirection (b : Byte) : (edge b || b == 3) = true ↔ 1 ≤ b.toNat ∧ b.toNat ≤ 3 := by
    simp only [edge, Bool.or_eq_true, beq_iff_eq]
    bv_omega
  have hpriority : decide (q.priority.toNat ≤ 3) = false ↔ 3 < q.priority.toNat := by simp
  have hmode (b : Byte) : (b == 0 || b == 1) = false ↔ 1 < b.toNat := by simp [one_lt_toNat_iff]
  have hsource (b : Byte) : (b == 0 || b == 1 || b == 2) = false ↔ 2 < b.toNat := by
    simp [two_lt_toNat_iff, and_assoc]
  have hperiod : (q.source != 0 || decide (20 ≤ q.period.toNat)) = false ↔ q.source = 0 ∧ q.period.toNat < 20 := by
    simp
  have hpair (a l e : Byte) : (a != 1 || (line l && edge e)) = false ↔ a = 1 ∧ ¬(isLine l && isEdge e) = true := by
    simp [line, edge, isLine, isEdge]
  have hlimit : (q.start != 2 || (decide (q.startLine.toNat < 32) && (edge q.startEdge || q.startEdge == 3))) =
      false ↔ q.start = 2 ∧ ¬(q.startLine.toNat < 32 ∧ 1 ≤ q.startEdge.toNat ∧ q.startEdge.toNat ≤ 3) := by
    rw [← hdirection]
    simp
  have hquota : (decide (1 ≤ q.quota.toNat) && decide (q.quota.toNat ≤ 32)) = false ↔
      q.quota.toNat < 1 ∨ 32 < q.quota.toNat := by simp; omega
  have habsent (b l e : Byte) : (b != 0 || (l == 0 && e == 0)) = false ↔ b = 0 ∧ ¬absentPair l e = true := by
    simp [absentPair]
  have hpaced : (q.source == 1 || (q.paceLine == 0 && q.paceEdge == 0)) = false ↔
      q.source ≠ 1 ∧ ¬absentPair q.paceLine q.paceEdge = true := by
    simp [absentPair]
  have hunpaced : (q.source == 0 || q.period == 0) = false ↔ q.source ≠ 0 ∧ q.period ≠ 0 := by simp
  simp only [firstFailing_cons, firstFailing_nil, Nat.reduceAdd, Bool.and_eq_false_iff, hpriority, hmode, hsource,
    hperiod, hpair, hlimit, hquota, habsent, hpaced, hunpaced, ite_or, reduceCtorEq, if_false]
  simp only [defineFault, if_neg hdepth, ite_or]

/-! ### DEFINE_CONTEXT: its context -/

/-- The frame size of the fields carried (R46, R197). -/
theorem frameBytes_definitionOf (q : DefineParams) (positions : Nat) :
    frameBytes (definitionOf q).format positions =
      if q.format = 0 then 2 * positions else (16 + 2 * positions + 7) / 8 * 8 := by
  simp only [definitionOf]
  split <;> rfl

/-- Fields that no check of R62 refuses ask for a unit of staging. -/
theorem quota_pos_of_defineFault_none {q : DefineParams} (h : defineFault q = none) : 1 ≤ q.quota.toNat := by
  rw [defineFault_eq, Option.map_eq_none_iff, List.findIdx?_eq_none_iff] at h
  have hquota := h (1 ≤ q.quota.toNat && q.quota.toNat ≤ 32) (by simp only [List.mem_cons, true_or, or_true])
  simp only [beq_eq_false_iff_ne, ne_eq, Bool.not_eq_false, Bool.and_eq_true, decide_eq_true_eq] at hquota
  exact hquota.1

/-- The checks of R62 and R63 in order, with the units that the other contexts hold. -/
theorem State.defineRefusal_eq {s : State} {c : CtxId} {q : DefineParams} {x : Ctx} {held positions size : Nat}
    (hx : s.ctx c = x) (hheld : s.unitsHeld - x.cap.quota = held) (hpositions : scanPositions x.steps = positions)
    (hsize : frameBytes (definitionOf q).format positions = size) :
    s.defineRefusal c q =
      match defineFault q with
      | some n => some (answer .badParam (word n) 0 0)
      | none =>
        if x.state ≠ .unbound ∧ x.state ≠ .defined ∧ x.state ≠ .ready then some (answer .badState 0 0 0)
        else if x.cap.queue ≠ [] then some (answer .buffersHeld 0 0 0)
        else if 64 < held + q.quota.toNat then some (answer .stagingFull (word (64 - held)) (word q.quota.toNat) 0)
        else if x.steps ≠ [] ∧ 512 * q.quota.toNat < (q.depth.toNat + 1) * size then
          some (answer .stagingShort (word positions) (word size) (word (512 * q.quota.toNat)))
        else none := by
  subst hx hheld hpositions hsize
  unfold State.defineRefusal
  cases hf : defineFault q with
  | some n => rfl
  | none =>
    have hpos := quota_pos_of_defineFault_none hf
    have hunits : s.unitsForCtx c < q.quota.toNat ↔ 64 < s.unitsHeld - (s.ctx c).cap.quota + q.quota.toNat := by
      simp only [State.unitsForCtx, Config.stagingUnits]
      omega
    have hroom (size : Nat) : (!quotaHolds q.quota.toNat (definitionOf q).depth size) = true ↔
        512 * q.quota.toNat < (q.depth.toNat + 1) * size := by
      simp [quotaHolds, Config.unitBytes, definitionOf]
    simp only [hunits, hroom]
    rfl

/-- The staging units left once a context's record has been replaced (R136). -/
theorem State.unitsFree_setCtx (s : State) (c : CtxId) (x : Ctx) :
    (s.setCtx c x).unitsFree = 64 - (s.unitsHeld - (s.ctx c).cap.quota + x.cap.quota) := by
  have hsum := s.sum_setCtx (fun y => y.cap.quota) c x
  have hle := s.le_sum_ctxs (fun y => y.cap.quota) c
  simp only [State.unitsFree, State.unitsHeld, Config.stagingUnits]
  omega

/-- A DEFINE_CONTEXT its owner takes: refused, or the definition and the quota are replaced (R62 to R64). -/
theorem Taken.exec_defineContext {s : State} {src : RingId} {c : CtxId} {q : DefineParams} {p : PendingEntry}
    (h : Taken s src (.defineContext c q) p) :
    exec (.defineContext src c q) s = .next (match (s.takeDispatched src).defineRefusal c q with
      | some a => (s.takeDispatched src).handIn [.command p.age a]
      | none =>
        let u := (s.takeDispatched src).setCtx c ((s.ctx c).defined (definitionOf q) q.quota.toNat)
        u.handIn [.command p.age (answer .ok (word u.unitsFree)
          (word (if (s.ctx c).steps = [] then 0
            else frameBytes (definitionOf q).format (scanPositions (s.ctx c).steps))) 0)]) := by
  refine congrArg Host.Outcome.next ((h.ownerTakes _).trans ?_)
  simp only [State.ctx_modCtx_self]
  rfl

/-- Settles O29: the definition by its named values, the twelve checks in order, then what R63 answers. -/
theorem defineContextByItsChecks : Obligations.DefineContextByItsChecks := by
  refine ⟨?_, defineFault_eq, ?_⟩
  · intro q d is code
    have hline {b : Byte} {l : LineId} (h : is b l) : lineOf b = l := h ▸ lineOf_ofNat l
    have hedge {b : Byte} {e : Edge} (h : b = code e) : edgeOf b = e := h ▸ edgeOf_code e
    have hlimit {n : ChanId} (h : q.start = 2) (hn : q.startLine = BitVec.ofNat 8 n.val) {b : Byte}
        (he : q.startEdge = b) : d.start = .limit n (directionOf b) :=
      definitionOf_startLimit h (hn ▸ chanOf_ofNat n) (congrArg directionOf he)
    refine ⟨rfl, ?_, ?_, ?_, fun l e h hl he => definitionOf_sourceLine h (hline hl) (hedge he), ?_, ?_,
      fun l e h hl he => definitionOf_startLine h (hline hl) (hedge he),
      fun n h hn => ⟨hlimit h hn, hlimit h hn, hlimit h hn⟩, ?_,
      fun l e h hl he => definitionOf_stopLine h (hline hl) (hedge he), ?_, ?_, ?_, ?_, ?_, ?_, rfl, rfl, rfl, rfl,
      rfl⟩
    all_goals
      intro h
      simp [d, definitionOf, h]
  · intro s src c q p h u x held quota positions size refused
    have hsize : frameBytes (definitionOf q).format positions = size := frameBytes_definitionOf q positions
    have hrefused : u.defineRefusal c q = refused :=
      State.defineRefusal_eq (s := u) (x := x) (held := held) rfl rfl rfl hsize
    have hfree : (u.setCtx c (x.defined (definitionOf q) quota)).unitsFree = 64 - (held + quota) :=
      State.unitsFree_setCtx u c (x.defined (definitionOf q) quota)
    have hexec := h.exec_defineContext
    rw [show (s.takeDispatched src).defineRefusal c q = refused from hrefused] at hexec
    refine ⟨fun a ha => ?_, fun hn => ?_⟩
    · rw [ha] at hexec
      exact h.completes hexec rfl rfl rfl rfl
    · rw [hn] at hexec
      have hword : word (if x.steps = [] then 0 else frameBytes (definitionOf q).format positions) =
          if x.steps = [] then 0 else word size := by
        rw [hsize]
        split <;> rfl
      rw [← hword, ← hfree]
      exact h.completes hexec rfl rfl rfl rfl

end Sys2Proof.Machine
end

section
/-!
PROOFS. Runs that start: the start trigger, and ARM by its checks.
-/

namespace Sys2Proof.Machine

open Sys2Proof

-- One thread at a time: each thread of a parallel proof reserves 1 GiB of the check's memory limit.
set_option Elab.async false

/-! ### The start trigger -/

/-- Everything the divider does at the start trigger (R98, R110). -/
theorem Pacing.startDivider_eq (p : Pacing) (d : Definition) (now : Time) :
    p.startDivider d now =
      let fromTrigger : Bool :=
        match d.source with
        | .internal _ => d.depth == 0 || d.start == .immediate
        | .line _ _ | .soft => false
      { p with
        origin := if fromTrigger then now else p.origin
        ticks := if fromTrigger then 0 else p.ticks } := by
  unfold Pacing.startDivider
  cases d.source with
  | internal period =>
    simp only [Bool.or_eq_true, beq_iff_eq]
    split <;> rfl
  | line l e => rfl
  | soft => rfl

/-- A start trigger taken is the start of the run, and the updates deferred to it are answered (R71, R177). -/
theorem State.takeTrigger_eq (s : State) (c : CtxId) :
    s.takeTrigger c = (startedBy s c).handIn (runEventClaims s .runStart c) := by
  simp only [State.takeTrigger, State.runEvent_eq, Ctx.triggered, Pacing.startDivider_eq]
  cases h : (s.ctx c).definition.clearCounters with
  | false =>
    simp only [startedBy, h]
    rfl
  | true =>
    simp only [startedBy, h, State.clearCounters, mapEach_eq]
    rfl

/-- When a limit event is the start trigger of a definition (R109). -/
theorem StartTrigger.metBy_eq (t : StartTrigger) (e : LimitEvent) :
    t.metBy e =
      match t with
      | .limit ch d => ch == e.channel &&
          (match d, e.region with
            | .above, .above => true
            | .below, .below => true
            | .either, .above => true
            | .either, .below => true
            | _, _ => false)
      | .immediate | .line _ _ => false := by
  rcases t with _ | _ | ⟨ch, d⟩
  · rfl
  · rfl
  · unfold StartTrigger.metBy
    cases d <;> cases e.region <;> rfl

/-- Settles O31: what the trigger does is `takeTrigger_eq`; a limit event is one as its watcher and definition say. -/
theorem startTriggerStartsTheRun : Obligations.StartTriggerStartsTheRun := by
  intro s c e x met
  have hmet : x.definition.start.metBy e = met := StartTrigger.metBy_eq ..
  have hlimit : s.limitTrigger e c = if x.pacing.watcher = .start ∧ met = true then s.takeTrigger c else s := by
    rw [← hmet]
    rfl
  exact ⟨s.takeTrigger_eq c, fun h => hlimit.trans (if_pos h), fun h => hlimit.trans (if_neg h)⟩

/-! ### ARM -/

/-- The slot length of a step's positions (R115). -/
theorem Step.slotCounts_eq : Step.slotCounts = fun st => if 32 ≤ st.input then 20 else 20 * (1 + st.settle) := by
  funext st
  simp only [Step.slotCounts, Step.isPseudo, decide_eq_true_eq]

/-- The smallest INTERNAL period of a sequence (R67 check 1, R115, R116). -/
theorem minPeriod_eq (mode : PaceMode) (steps : List Step) :
    minPeriod mode steps =
      let slot (st : Step) : Nat := if 32 ≤ st.input then 20 else 20 * (1 + st.settle)
      match mode with
      | .step => (steps.map slot).foldl max 0
      | .scan => (steps.map fun st => st.reps * slot st).sum := by
  cases mode <;> simp only [minPeriod, longestSlot, scanCounts, Step.slotCounts_eq]

/-- A step at one of the two highest gains with settle extension 0 (R67 check 2). -/
theorem State.settleShort_eq (s : State) :
    s.settleShort = fun st => st.input < 32 &&
      6 ≤ (if st.gain ≤ 7 then st.gain else (s.chan (Fin.ofNat 32 st.input)).gain) && st.settle == 0 := by
  funext st
  unfold State.settleShort
  split
  · next h =>
    have hchan : (⟨st.input, h⟩ : ChanId) = Fin.ofNat 32 st.input := Fin.ext (Nat.mod_eq_of_lt h).symm
    simp only [hchan, h, decide_true, Bool.true_and]
  · next h => simp only [h, decide_false, Bool.false_and]

/-- An input is the partner of a DIFF channel, the channels counted from 0 to 15 (R29). -/
theorem State.isPartner_eq (s : State) (input : Nat) :
    s.isPartner input =
      (List.range 16).any fun n => input == n + 16 && (s.chan (Fin.ofNat 32 n)).mode == .diff := by
  have hmode (n : Nat) (h : n < 16) :
      s.chans.toList[n]?.map (fun ch => ch.mode) = some (s.chan (Fin.ofNat 32 n)).mode := by
    have hn : n < 32 := by omega
    simp [State.chan, hn, Nat.mod_eq_of_lt hn]
  rw [Bool.eq_iff_iff, State.isPartner_iff]
  simp only [List.any_eq_true, List.mem_range, Bool.and_eq_true, beq_iff_eq]
  refine exists_congr fun n => and_congr_right fun h => and_congr_right fun _ => ?_
  rw [hmode n h, Option.some.injEq]

/-- The lines a definition names (R66 check 4). -/
theorem Definition.linesNamed_eq (d : Definition) :
    d.linesNamed =
      (match d.source with
        | .line l _ => [l]
        | .internal _ | .soft => []) ++
      (match d.start with
        | .line l _ => [l]
        | .immediate | .limit _ _ => []) ++
      (match d.stop with
        | .line l _ => [l]
        | .none => []) := by
  unfold Definition.linesNamed Definition.paceLine? Definition.startLine? Definition.stopLine?
  cases d.source <;> cases d.start <;> cases d.stop <;> rfl

/-- The checks of R66 after the period, in order. -/
theorem State.armRefusal_later_eq (s : State) (x : Ctx) (d : Definition) :
    State.armRefusal.later s x d =
      match x.steps.findIdx? s.settleShort, x.steps.findIdx? fun st => s.isPartner st.input,
        d.linesNamed.find? (fun l => (s.line l).mode != .input), s.conv.cal.entry with
      | some i, _, _, _ => some (answer .settleShort (word i) 0 0)
      | none, some i, _, _ => some (answer .pairConflict (word i) 0 0)
      | none, none, some l, _ => some (answer .lineMode (word l.val) 0 0)
      | none, none, none, some _ => some (answer .calibrating 0 0 0)
      | none, none, none, none => none := by
  unfold State.armRefusal.later
  cases x.steps.findIdx? s.settleShort with
  | some i => rfl
  | none =>
    cases x.steps.findIdx? fun st => s.isPartner st.input with
    | some i => rfl
    | none =>
      cases d.linesNamed.find? fun l => (s.line l).mode != .input with
      | some l => rfl
      | none => cases s.conv.cal.entry <;> rfl

/-- The checks of R66 in order: the state and the period, then the others. -/
theorem State.armRefusal_eq {s : State} {c : CtxId} {x : Ctx} {d : Definition} {least : Nat} (hx : s.ctx c = x)
    (hd : x.definition = d) (hleast : minPeriod d.mode x.steps = least) :
    s.armRefusal c =
      let fast : Bool :=
        match d.source with
        | .internal period => period < least
        | .line _ _ | .soft => false
      if x.state ≠ .ready then some (answer .badState 0 0 0)
      else if fast then some (answer .periodShort (word least) 0 0)
      else State.armRefusal.later s x d := by
  unfold State.armRefusal
  subst hx hd hleast
  cases h : (s.ctx c).definition.source with
  | internal period => simp only [h, decide_eq_true_eq]
  | line l e => simp only [h, Bool.false_eq_true, if_false]
  | soft => simp only [h, Bool.false_eq_true, if_false]

/-- The pacing record of an armed context (R97). -/
theorem Pacing.armed_eq (p : Pacing) (d : Definition) (now : Time) :
    p.armed d now =
      let history : Bool := 0 < d.depth && d.start != .immediate
      let divided : Bool :=
        match d.source with
        | .internal _ => history
        | .line _ _ | .soft => false
      { p with
        nextPos := 0, tick := .free, countReached := false, watcher := .start
        deadline := if d.timeout = 0 then none else some (now + BitVec.ofNat 64 (10000 * d.timeout))
        phase := if history then .history else p.phase
        origin := if divided then now else p.origin
        ticks := if divided then 0 else p.ticks } := by
  unfold Pacing.armed Definition.keepsHistory
  cases d.source with
  | internal period => rfl
  | line l e => simp only [ite_self]; rfl
  | soft => simp only [ite_self]; rfl

/-- An ARM its owner takes: refused, or the context is ARMED and an IMMEDIATE start is taken (R66, R69, R97). -/
theorem Taken.exec_arm {s : State} {src : RingId} {c : CtxId} {p : PendingEntry} (h : Taken s src (.arm c) p) :
    exec (.arm src c) s = .next (match (s.takeDispatched src).armRefusal c with
      | some a => (s.takeDispatched src).handIn [.command p.age a]
      | none =>
        let u := (s.takeDispatched src).setCtx c ((s.ctx c).armedBy p.age s.timeBase)
        if (s.ctx c).definition.start = .immediate then u.takeTrigger c else u) := by
  refine congrArg Host.Outcome.next ((h.ownerTakes _).trans ?_)
  simp only [State.ctx_modCtx_self]
  rfl

/-- Settles O30: the checks of R66 stand in the order of the statement; past them the record is that of R97. -/
theorem armByItsChecks : Obligations.ArmByItsChecks := by
  intro s src c p h u x d slot least fast gain unsettled partner named refused history divided armed
  have hleast : minPeriod d.mode x.steps = least := minPeriod_eq ..
  have hunsettled : u.settleShort = unsettled := State.settleShort_eq u
  have hpartner : (fun st : Step => u.isPartner st.input) = partner := funext fun st => State.isPartner_eq u st.input
  have hnamed : d.linesNamed = named := Definition.linesNamed_eq d
  have hrefused : u.armRefusal c = refused := by
    rw [State.armRefusal_eq (s := u) (x := x) rfl rfl hleast, State.armRefusal_later_eq, hunsettled, hpartner, hnamed]
    rfl
  have hpacing : x.pacing.armed d s.timeBase = armed.pacing := Pacing.armed_eq ..
  have harmed : x.armedBy p.age s.timeBase = armed := by rw [Ctx.armedBy, hpacing]
  have hexec := h.exec_arm
  rw [show (s.ctx c).armedBy p.age s.timeBase = armed from harmed,
    show (s.takeDispatched src).armRefusal c = refused from hrefused] at hexec
  refine ⟨fun a ha => ?_, fun hn hstart => ?_, fun hn hstart => ?_⟩
  · rw [ha] at hexec
    exact h.completes hexec rfl rfl rfl rfl
  · rw [hn] at hexec
    exact hexec.trans (congrArg Host.Outcome.next (if_neg hstart))
  · rw [hn] at hexec
    exact hexec.trans (congrArg Host.Outcome.next ((if_pos hstart).trans (State.takeTrigger_eq _ c)))

end Sys2Proof.Machine
end

section
/-!
PROOFS. Runs that are brought to an end: STOP by state and mode, and a line edge as counters and contexts take it.
-/

namespace Sys2Proof.Machine

open Sys2Proof

-- One thread at a time: each thread of a parallel proof reserves 1 GiB of the check's memory limit.
set_option Elab.async false

/-! ### An orderly end -/

/-- A context that goes to STOPPING with its run and its store as given (R78, R114). -/
def Ctx.stoppingWith (x : Ctx) (run : Run) (store : List Frame) : Ctx :=
  { x with state := .stopping, run := run, pacing := pacingOver x.pacing, cap := { x.cap with store := store } }

section

variable {x : Ctx} (reason : EndReason)

/-- In STEP mode the scan in progress is discarded and counted (R78). -/
theorem Ctx.stopRun_stepFilling (hm : x.definition.mode = .step)
    (hf : (x.cap.store.any fun f => f.cond == .filling) = true) :
    x.stopRun reason = x.stoppingWith { x.run with endReason := some reason, discarded := x.run.discarded + 1 }
      (withoutFilling x.cap.store) := by
  simp only [Ctx.stopRun, hm, Ctx.discardFilling, show x.hasFilling = true from hf, if_true]
  rfl

/-- In STEP mode with no scan in progress only pacing ends (R78). -/
theorem Ctx.stopRun_stepEmpty (hm : x.definition.mode = .step)
    (hf : (x.cap.store.any fun f => f.cond == .filling) = false) :
    x.stopRun reason = x.stoppingWith { x.run with endReason := some reason } x.cap.store := by
  simp only [Ctx.stopRun, hm, Ctx.discardFilling, show x.hasFilling = false from hf]
  rfl

/-- In SCAN mode a latched tick is withdrawn with its scan number (R78). -/
theorem Ctx.stopRun_scanLatched (hm : x.definition.mode = .scan) (ht : x.pacing.tick = .latched) :
    x.stopRun reason = x.stoppingWith
      { x.run with
        endReason := some reason
        numbered := x.run.numbered - 1
        nextScan := x.run.nextScan - 1
        begun := if x.cap.store.any fun f => f.cond == .filling && f.history then x.run.begun else x.run.begun - 1 }
      (withoutFilling x.cap.store) := by
  simp only [Ctx.stopRun, hm, ht, if_true]
  rfl

/-- In SCAN mode with no latched tick only pacing ends (R78). -/
theorem Ctx.stopRun_scan (hm : x.definition.mode = .scan) (ht : x.pacing.tick ≠ .latched) :
    x.stopRun reason = x.stoppingWith { x.run with endReason := some reason } x.cap.store := by
  simp only [Ctx.stopRun, hm, if_neg ht]
  rfl

end

/-! ### STOP -/

/-- A STOP its owner takes: refused, or kept with what it does to the run (R77). -/
theorem Taken.exec_stop {s : State} {src : RingId} {c : CtxId} {p : PendingEntry} (h : Taken s src (.stop c) p) :
    exec (.stop src c) s = .next (if (s.ctx c).state.active then
        ((s.takeDispatched src).setCtx c ((s.ctx c).keepStop p.age).stopEffect).settleCtx c
      else (s.takeDispatched src).complete p.age .badState 0 0 0) :=
  congrArg Host.Outcome.next (h.ownerTakes _)

theorem Ctx.stopEffect_running {x : Ctx} (h : x.state = .running) : x.stopEffect = x.stopRun .stopped := by
  simp only [Ctx.stopEffect, h]

theorem Ctx.stopEffect_armed {x : Ctx} (h : x.state = .armed) (hr : x.run.endReason = none) :
    x.stopEffect = x.endInArmed .stopped := by
  simp only [Ctx.stopEffect, h, hr]

/-- A STOP of a run that ends already does nothing more to it (R77, R80). -/
theorem Ctx.stopEffect_ending {x : Ctx} (h : x.state = .stopping ∨ (x.state = .armed ∧ x.run.endReason ≠ none)) :
    x.stopEffect = x := by
  rcases h with h | ⟨h, hr⟩
  · simp only [Ctx.stopEffect, h]
  · obtain ⟨reason, hr⟩ := Option.ne_none_iff_exists'.1 hr
    simp only [Ctx.stopEffect, h, hr]

/-- Settles O32: refused, or kept; then the end of the run by the state, the mode and the tick state. -/
theorem stopEndsTheRunInOrder : Obligations.StopEndsTheRunInOrder := by
  intro s src c p h u x run ended filling history stopping goesTo
  have hexec := h.exec_stop
  have goes {y : Ctx} (hst : x.state.active = true) (hy : (x.keepStop p.age).stopEffect = y) : goesTo y := by
    rw [if_pos hst] at hexec
    rw [← hy]
    exact hexec
  have goesRunning {y : Ctx} (hst : x.state = .running) (hy : (x.keepStop p.age).stopRun .stopped = y) : goesTo y :=
    goes (by rw [hst]; rfl) ((Ctx.stopEffect_running (x := x.keepStop p.age) hst).trans hy)
  refine ⟨fun hst => ?_, fun hst hm hf => goesRunning hst (Ctx.stopRun_stepFilling _ hm hf),
    fun hst hm hf => goesRunning hst (Ctx.stopRun_stepEmpty _ hm hf),
    fun hst hm ht => goesRunning hst (Ctx.stopRun_scanLatched _ hm ht),
    fun hst hm ht => goesRunning hst (Ctx.stopRun_scan _ hm ht),
    fun hst hr => goes (by rw [hst]; rfl) (Ctx.stopEffect_armed (x := x.keepStop p.age) hst hr), fun hst => ?_⟩
  · have hinactive : ¬x.state.active = true := by
      rw [CtxState.active_iff]
      simpa using hst
    rw [if_neg hinactive] at hexec
    exact h.completes hexec rfl rfl rfl rfl
  · have hactive : x.state.active = true := by
      rw [CtxState.active_iff]
      exact hst.elim (.inr ∘ .inr) (.inl ∘ And.left)
    exact goes hactive (Ctx.stopEffect_ending (x := x.keepStop p.age) hst)

/-! ### LINE_EDGE -/

/-- A line edge is taken by one counter, or by one context of an ONLINE device (R96, R162, R170). -/
theorem State.takeEdge_eq (l : LineId) (e : Edge) (s : State) (taker : EdgeTaker) :
    s.takeEdge l e taker =
      match taker with
      | .counter k =>
        if (s.counter k).source = some (l, e) then
          { s with lines := { s.lines with
            counters := s.lines.counters.set k.val { s.counter k with count := (s.counter k).count + 1 } } }
        else s
      | .context c => if s.link.device = .online then s.edgeForContext l e c else s := by
  cases taker with
  | counter k =>
    unfold State.takeEdge Counter.countEdge
    simp only
    split
    · rfl
    · simp [State.setCounter, State.counter]
  | context c => rfl

/-- Folding two functions that agree wherever an invariant of the second holds. -/
theorem foldl_congr_of_invariant {α β : Type} {f g : β → α → β} {P : β → Prop}
    (hfg : ∀ b, P b → ∀ a, f b a = g b a) (hP : ∀ b a, P b → P (g b a)) (l : List α) (b : β) (hb : P b) :
    l.foldl f b = l.foldl g b := by
  induction l generalizing b with
  | nil => rfl
  | cons a l ih =>
    rw [List.foldl_cons, List.foldl_cons, hfg b hb a]
    exact ih _ (hP b a hb)

/-- A context that watches its stop trigger on the edge takes it as that alone (R76, R112). -/
theorem State.edgeForContext_stop {s : State} {l : LineId} {e : Edge} {c : CtxId}
    (h : (s.ctx c).pacing.watcher = .stop ∧ (s.ctx c).definition.stop = .line l e) :
    s.edgeForContext l e c = (s.setCtx c ((s.ctx c).stopRun .stopTrigger)).settleCtx c := if_pos h

/-- Another context takes the edge as its start trigger if it watches for it, then as a tick if it is paced by it (R99,
R107). -/
theorem State.edgeForContext_other {s : State} {l : LineId} {e : Edge} {c : CtxId}
    (h : ¬((s.ctx c).pacing.watcher = .stop ∧ (s.ctx c).definition.stop = .line l e)) :
    s.edgeForContext l e c =
      let t :=
        if (s.ctx c).pacing.watcher = .start ∧ (s.ctx c).definition.start = .line l e then s.takeTrigger c else s
      if (s.ctx c).definition.source = .line l e then (t.deliverTick c).1.settleCtx c else t := if_neg h

/-- LINE_EDGE of a level that is no edge (R162, log 7). -/
theorem exec_lineEdge_noEdge {s : State} {l : LineId} {level : Bool}
    (h : ¬((s.line l).mode = .input ∧ (s.line l).seen ≠ level)) (order : List EdgeTaker) (read : ReadOrder) :
    exec (.lineEdge l level order read) s =
      .next { s with lines := { s.lines with pins := pinsWith s.lines.pins l level } } :=
  congrArg Host.Outcome.next (if_neg h)

/-- The state in which a new level stands at a line's input and has been seen there (R162, log 7). -/
def State.levelSeen (s : State) (l : LineId) (level : Bool) : State :=
  State.setLine { s with lines := { s.lines with pins := pinsWith s.lines.pins l level } } l
    { s.line l with seen := level }

/-- LINE_EDGE of an edge: it is seen and handed on, and the readings of the event are taken (R162, R163). -/
theorem exec_lineEdge_edge {s : State} {l : LineId} {level : Bool}
    (h : (s.line l).mode = .input ∧ (s.line l).seen ≠ level) (order : List EdgeTaker) (read : ReadOrder) :
    exec (.lineEdge l level order read) s =
      .next (((s.levelSeen l level).handEdge l (if level then .rising else .falling) order).readBy s read) :=
  congrArg Host.Outcome.next (if_pos h)

/-- Settles O56: the edge is handed on in the order of the statement; each context takes it as its watcher says. -/
theorem lineEdgeGoesToCountersAndContexts : Obligations.LineEdgeGoesToCountersAndContexts := by
  intro s l level order read c e pins u seen take edge x stops ended filling history goesTo
  have goes {y : Ctx} (hs : stops) (hy : x.stopRun .stopTrigger = y) :
      s.edgeForContext l e c = (s.setCtx c y).settleCtx c := by
    rw [← hy]
    exact State.edgeForContext_stop hs
  refine ⟨completeOrder_full, fun hn => exec_lineEdge_noEdge hn order read, fun he hd => ?_, fun he hd => ?_,
    fun hs hm hf => goes hs (Ctx.stopRun_stepFilling _ hm hf), fun hs hm hf => goes hs (Ctx.stopRun_stepEmpty _ hm hf),
    fun hs hm ht => goes hs (Ctx.stopRun_scanLatched _ hm ht), fun hs hm ht => goes hs (Ctx.stopRun_scan _ hm ht),
    fun hn => State.edgeForContext_other hn⟩
  · have hexec := exec_lineEdge_edge he order read
    have hgiven : seen.handEdge l e order = seen := if_pos hd
    have hread : seen.readBy s read = seen := State.readBy_same read rfl fun _ => id
    rw [hexec]
    exact congrArg Host.Outcome.next ((congrArg (State.readBy · s read) hgiven).trans hread)
  · have hexec := exec_lineEdge_edge he order read
    have htake (t : State) (ht : t.link.device = s.link.device) (taker : EdgeTaker) :
        t.takeEdge l e taker = take t taker := by
      have heq := State.takeEdge_eq l e t taker
      rw [ht] at heq
      exact heq
    have hkeeps (t : State) (taker : EdgeTaker) (ht : t.link.device = s.link.device) :
        (take t taker).link.device = s.link.device := by
      rw [← htake t ht taker, (Calm.takeEdge l e t taker).link, ht]
    have hgiven : seen.handEdge l e order = (completeOrder EdgeTaker.all order).foldl take seen :=
      (if_neg hd).trans (foldl_congr_of_invariant htake hkeeps _ seen rfl)
    rw [hexec, State.readBy_eq]
    exact congrArg (fun t => Host.Outcome.next (readInOrder read s t)) hgiven

end Sys2Proof.Machine
end

section
/-!
PROOFS. A tick that begins a scan, by phase, room and policy.
-/

namespace Sys2Proof.Machine

open Sys2Proof

-- One thread at a time: each thread of a parallel proof reserves 1 GiB of the check's memory limit.
set_option Elab.async false

/-! ### The records of a scan that begins -/

/-- Everything the begin of a history scan does (R70, R139). -/
theorem Ctx.beginHistory_eq (x : Ctx) (f : Frame) :
    x.beginHistory f = { x with
      pacing := { x.pacing with tick := .latched }
      cap := { x.cap with
        store := (if x.definition.depth ≤ x.cap.store.length then x.cap.store.tail else x.cap.store) ++ [f] } } := rfl

/-- How many frames the quota holds whole (R46, R137). -/
theorem Ctx.frameCapacity_eq (x : Ctx) :
    x.frameCapacity =
      let positions := (x.steps.map fun st => st.reps).sum
      let size := match x.definition.format with
        | .packed => 2 * positions
        | .framed => (16 + 2 * positions + 7) / 8 * 8
      if x.steps = [] then 0 else 512 * x.cap.quota / size := by
  simp only [Ctx.frameCapacity, Ctx.frameSize]
  cases x.definition.format <;> rfl

/-- With staging left the scan is numbered and its frame reserved (R73, R138). -/
theorem Ctx.beginScan_reserved {x : Ctx} (h : x.cap.store.length < x.frameCapacity) (f : Frame) :
    x.beginScan f = { x.numberScan.latch with
      cap := { x.cap with store := x.cap.store ++ [{ f with scan := some x.run.nextScan }] } } := if_pos h

/-- With none left and policy DISCARD the scan is numbered and counted dropped (R73, R75). -/
theorem Ctx.beginScan_dropped {x : Ctx} (h : x.frameCapacity ≤ x.cap.store.length)
    (hp : x.definition.bufferPolicy = .discard) (f : Frame) :
    x.beginScan f = Ctx.doneIfCounted { x.numberScan with
      run := { x.numberScan.run with dropped := x.run.dropped + 1 } } := by
  rw [Ctx.beginScan, if_neg (Nat.not_lt.2 h)]
  simp only [hp]
  rfl

/-- With none left and policy HALT the run ends OVERRUN (R85). -/
theorem Ctx.beginScan_overrun {x : Ctx} (h : x.frameCapacity ≤ x.cap.store.length)
    (hp : x.definition.bufferPolicy = .halt) (f : Frame) : x.beginScan f = x.faultEnd .overrun := by
  rw [Ctx.beginScan, if_neg (Nat.not_lt.2 h)]
  simp only [hp]

/-- Everything a fault end does to its context (R85, R155). -/
theorem Ctx.faultEnd_eq (x : Ctx) (reason : EndReason) : x.faultEnd reason = faultEnded x reason := by
  cases hf : x.cap.store.any fun f => f.cond == .filling with
  | true =>
    simp only [Ctx.faultEnd, Ctx.discardFilling, show x.hasFilling = true from hf, if_true, faultEnded, hf]
    rfl
  | false =>
    have hkept : withoutFilling x.cap.store = x.cap.store :=
      List.filter_eq_self.2 fun f hm => by simpa using List.any_eq_false.1 hf f hm
    simp only [Ctx.faultEnd, Ctx.discardFilling, show x.hasFilling = false from hf, faultEnded, hf, hkept]
    rfl

/-- Everything the SCAN_START lines of a context do at an event (R169). -/
theorem State.pulse_scanStart (s : State) (c : CtxId) :
    s.pulse c .scanStart = { s with
      lines := { s.lines with
        lines := s.lines.lines.map fun l =>
          if l.mode = .event c .scanStart then { l with pulseEnd := some (s.timeBase + 10) } else l } } := by
  simp only [State.pulse, mapEach_eq, Line.afterEvent, Line.follows, beq_iff_eq]
  rfl

/-- A tick taken at a scan start begins the scan (R102, R103). -/
theorem State.deliverTick_begins {s : State} {c : CtxId} (hp : (s.ctx c).pacing.phase ≠ .off)
    (ht : (s.ctx c).pacing.tick = .free) (hb : (s.ctx c).definition.mode = .scan ∨ (s.ctx c).pacing.nextPos = 0)
    (hc : (s.ctx c).pacing.countReached = false) : s.deliverTick c = (s.scanBegins c, .taken 0) := by
  have hbegins : (s.ctx c).tickBeginsScan = true := by simpa [Ctx.tickBeginsScan] using hb
  rw [State.deliverTick, if_neg hp, if_pos ht, if_pos hbegins, hc]
  rfl

/-- In phase HISTORY the scan's record joins the history (R70); the lines pulse, and the arbiter selects (R169). -/
theorem State.scanBegins_history {s : State} {c : CtxId} (hp : (s.ctx c).pacing.phase = .history) :
    s.scanBegins c = ((s.setCtx c ((s.ctx c).beginHistory
      (s.newFrame (scanPositions (s.ctx c).steps) none true))).pulse c .scanStart).arbitrate := by
  simp only [State.scanBegins, hp]

/-- In phase RUN the scan is one of the run (R73); the lines pulse, and the arbiter selects (R169). -/
theorem State.scanBegins_run {s : State} {c : CtxId} (hp : (s.ctx c).pacing.phase = .run) :
    s.scanBegins c = ((s.setCtx c ((s.ctx c).beginScan
      (s.newFrame (scanPositions (s.ctx c).steps) none false))).pulse c .scanStart).arbitrate := by
  simp only [State.scanBegins, hp]

/-- Settles O37: the tick begins a scan; what becomes of the record is said by phase, room and policy. -/
theorem tickBeginsAScan : Obligations.TickBeginsAScan := by
  intro s c x d frame positions size capacity latched begun counted numbered dropped pulsing goesTo hon hfree hbegins
    hcount _
  have hbegun : s.deliverTick c = (s.scanBegins c, .taken 0) := State.deliverTick_begins hon hfree hbegins hcount
  have goesHistory {y : Ctx} (hp : x.pacing.phase = .history) (hy : x.beginHistory (frame none true) = y) :
      goesTo y := by
    rw [State.scanBegins_history hp, State.pulse_scanStart] at hbegun
    rw [← hy]
    exact hbegun
  have goesRun {y : Ctx} (hp : x.pacing.phase = .run) (hy : x.beginScan (frame none false) = y) : goesTo y := by
    rw [State.scanBegins_run hp, State.pulse_scanStart] at hbegun
    rw [← hy]
    exact hbegun
  have hcapacity : x.frameCapacity = capacity := x.frameCapacity_eq
  refine ⟨fun hp => goesHistory hp (Ctx.beginHistory_eq _ _), fun hp hroom => goesRun hp ?_,
    fun hp hroom hpol => ⟨fun hn => goesRun hp ?_, fun hdone => goesRun hp ?_⟩, fun hp hroom hpol => goesRun hp ?_⟩
  · exact Ctx.beginScan_reserved (hcapacity ▸ hroom) _
  · rw [Ctx.beginScan_dropped (hcapacity ▸ hroom) hpol, Ctx.doneIfCounted_eq]
    exact if_neg hn
  · rw [Ctx.beginScan_dropped (hcapacity ▸ hroom) hpol, Ctx.doneIfCounted_eq]
    exact if_pos hdone
  · rw [Ctx.beginScan_overrun (hcapacity ▸ hroom) hpol, Ctx.faultEnd_eq]

end Sys2Proof.Machine
end

section
/-!
PROOFS. RESET_CONTEXT and RELEASE_CONTEXT by state, and the timers at their deadlines.
-/

namespace Sys2Proof.Machine

open Sys2Proof

-- One thread at a time: each thread of a parallel proof reserves 1 GiB of the check's memory limit.
set_option Elab.async false

/-! ### Updates that are cancelled -/

/-- An output that is told of the reset or release of a context: an update for it is given up (R178). -/
def outputCancelled (o : Output) (c : CtxId) : Output :=
  match o.update with
  | some d => if d.ctx = c then ⟨o.code, none⟩ else o
  | none => o

/-- The claim of an output's update that is given up: CANCELLED, with the output, the update's code and the code that
stands (R178). -/
def cancelClaim (n : Fin 2) (o : Output) (c : CtxId) : List Claim :=
  match o.update with
  | some d =>
    if d.ctx = c then
      [.command d.entry (answer .cancelled (word n.val) (d.code.setWidth 32) (o.code.setWidth 32))]
    else []
  | none => []

/-- Everything a cancellation does at one output (R178). -/
theorem State.cancelUpdate_eq (s : State) (c : CtxId) (o : Fin 2) :
    s.cancelUpdate c o = (s.setOut o (outputCancelled (s.out o) c), cancelClaim o (s.out o) c) := by
  have hs : s.setOut o (s.out o) = s := by simp [State.setOut, State.out]
  unfold State.cancelUpdate outputCancelled cancelClaim
  cases (s.out o).update with
  | none => simp only [hs]
  | some d =>
    by_cases hc : d.ctx = c
    · simp only [if_pos hc]
    · simp only [if_neg hc, hs]

/-- Everything a cancellation does (R178). -/
theorem State.cancelUpdates_eq (s : State) (c : CtxId) :
    s.cancelUpdates c = ({ s with outs := s.outs.map fun o => outputCancelled o c },
      cancelClaim 0 (s.out 0) c ++ cancelClaim 1 (s.out 1) c) := by
  have hother : (s.setOut 0 (outputCancelled (s.out 0) c)).out 1 = s.out 1 := by
    rw [State.out_setOut]
    exact if_neg (by decide)
  have hboth : (s.outs.set 0 (outputCancelled (s.out 0) c)).set 1 (outputCancelled (s.out 1) c) =
      s.outs.map fun o => outputCancelled o c := by
    apply Vector.ext
    intro i hi
    have : i = 0 ∨ i = 1 := by omega
    rcases this with rfl | rfl <;> simp [State.out]
  simp only [State.cancelUpdates, State.cancelUpdate_eq, hother]
  exact Prod.ext (congrArg (fun v => { s with outs := v }) hboth) rfl

/-! ### RESET_CONTEXT and RELEASE_CONTEXT -/

/-- A context's record has become `y`, the updates deferred to it are cancelled, and what is due is handed in: of the
context first, then the cancelled updates (R91, R178, logs 14 and 15). -/
def State.returnedAs (s : State) (c : CtxId) (y : Ctx) : State :=
  let w : State := { s.setCtx c y with outs := s.outs.map fun o => outputCancelled o c }
  w.handIn (w.contextClaim c ++ (cancelClaim 0 (s.out 0) c ++ cancelClaim 1 (s.out 1) c))

/-- A record that has just been replaced is changed once more. -/
theorem State.modCtx_setCtx (s : State) (c : CtxId) (x : Ctx) (f : Ctx → Ctx) :
    (s.setCtx c x).modCtx c f = s.setCtx c (f x) := by
  rw [State.modCtx, State.ctx_setCtx_self]
  simp [State.setCtx]

/-- Everything the end of a RESET_CONTEXT or a RELEASE_CONTEXT does (R91, R92, R178). -/
theorem State.finishReturn_eq (s : State) (c : CtxId) (x : Ctx) (entry : Nat) (a : Answer) :
    (s.setCtx c x).finishReturn c entry a = s.returnedAs c (x.answerBehind entry a) := by
  simp only [State.finishReturn, State.modCtx_setCtx, State.cancelUpdates_eq]
  rfl

/-- What RESET_CONTEXT does in each state of its context (R91). -/
theorem Taken.exec_resetContext {s : State} {src : RingId} {c : CtxId} {p : PendingEntry}
    (h : Taken s src (.resetContext c) p) :
    ((s.ctx c).state ∈ [.defined, .ready, .halted] →
      exec (.resetContext src c) s = .next ((s.takeDispatched src).returnedAs c
        ((s.ctx c).wasReset.answerBehind p.age (answer .ok (word (s.ctx c).cap.queue.length) 0 0)))) ∧
    ((s.ctx c).state ∉ [.defined, .ready, .halted] →
      exec (.resetContext src c) s = .next ((s.takeDispatched src).complete p.age .badState 0 0 0)) := by
  simp only [exec, execResetContext, h.ownerTakes, State.ctx_takeDispatched, ← State.finishReturn_eq]
  cases hst : (s.ctx c).state <;> simp [State.modCtx]

/-- What RELEASE_CONTEXT does in each state of its context (R92). -/
theorem Taken.exec_releaseContext {s : State} {src : RingId} {c : CtxId} {p : PendingEntry}
    (h : Taken s src (.releaseContext c) p) :
    ((s.ctx c).state ∈ [.defined, .ready, .halted] →
      exec (.releaseContext src c) s = .next ((s.takeDispatched src).returnedAs c
        ((s.ctx c).released.answerBehind p.age
          (answer .ok (word (s.ctx c).cap.queue.length) (word (s.ctx c).slots) (word (s.ctx c).cap.quota))))) ∧
    ((s.ctx c).state = .unbound →
      exec (.releaseContext src c) s = .next ((s.takeDispatched src).complete p.age .ok 0 0 0)) ∧
    ((s.ctx c).state ∈ [.loading, .armed, .running, .stopping] →
      exec (.releaseContext src c) s = .next ((s.takeDispatched src).complete p.age .badState 0 0 0)) := by
  simp only [exec, execReleaseContext, h.ownerTakes, State.ctx_takeDispatched, ← State.finishReturn_eq]
  cases hst : (s.ctx c).state <;> simp [State.modCtx]

/-- Settles O34, by the state each command finds; the updates are cancelled as `cancelUpdates_eq` says. -/
theorem resetAndReleaseReturnTheBuffers : Obligations.ResetAndReleaseReturnTheBuffers := by
  intro s src c p u x run cap outs cancelled ends
  have hends {y z : Ctx} (hz : z = y) : u.returnedAs c z = ends y := by
    rw [hz]
    rfl
  refine ⟨fun h => ?_, fun h => ?_⟩
  · obtain ⟨hreturns, hrefused⟩ := h.exec_resetContext
    refine ⟨fun hst => ?_, fun hst => h.completes (hrefused hst) rfl rfl rfl rfl⟩
    exact (hreturns hst).trans (congrArg Host.Outcome.next (hends rfl))
  · obtain ⟨hreturns, hunbound, hrefused⟩ := h.exec_releaseContext
    refine ⟨fun hst => ?_, fun hst => h.completes (hunbound hst) rfl rfl rfl rfl,
      fun hst => h.completes (hrefused hst) rfl rfl rfl rfl⟩
    exact (hreturns hst).trans (congrArg Host.Outcome.next (hends rfl))

/-! ### The timers -/

/-- The open buffer at the head of the queue becomes due (R152). -/
theorem Ctx.headDue_cons {x : Ctx} {b : Buffer} {behind : List Buffer} (h : x.cap.queue = b :: behind)
    (status : BufferStatus) : x.headDue status = { x with cap := { x.cap with
      queue := { b with due := some status } :: behind
      flushDeadline := none } } := by
  simp only [Ctx.headDue, h]

/-- Settles O41: each timer with its deadline, and without one. -/
theorem timersExpireAtTheirInstants : Obligations.TimersExpireAtTheirInstants := by
  intro s c l reached x
  have hreached (t : Time) : s.advanceTo t = reached t := s.advanceTo_eq t
  refine ⟨fun t hd ht => ?_, fun ht => ?_, fun t b rest hd ht hq => ?_, fun ht => ?_, fun t ht => ?_, fun ht => ?_⟩
  · simp only [exec, execTriggerTimeout, hd, show (s.ctx c).pacing.deadline = some t from ht, hreached]
    rfl
  · simp only [exec, execTriggerTimeout, show (s.ctx c).pacing.deadline = none from ht]
    cases s.link.device <;> rfl
  · have hctx : (reached t).ctx c = x := rfl
    simp only [exec, execFlushTimer, hd, show (s.ctx c).cap.flushDeadline = some t from ht, hreached, State.modCtx,
      hctx, Ctx.headDue_cons hq]
  · simp only [exec, execFlushTimer, show (s.ctx c).cap.flushDeadline = none from ht]
    cases s.link.device <;> rfl
  · simp only [exec, execEventPulseEnd, ht, hreached]
  · simp only [exec, execEventPulseEnd, ht]

end Sys2Proof.Machine
end

section
/-!
PROOFS. The end of a run: the ARM's completion, the STOPs', the ABORTs', then the updates deferred to it.
-/

namespace Sys2Proof.Machine

open Sys2Proof

-- One thread at a time: each thread of a parallel proof reserves 1 GiB of the check's memory limit.
set_option Elab.async false

/-! ### Commands that are pending -/

/-- An entry of a table whose entries have different numbers is found by its number. -/
theorem State.entry?_of_mem {s : State} {p : PendingEntry} (hn : (s.intake.table.map (·.age)).Nodup)
    (hp : p ∈ s.intake.table) : s.entry? p.age = some p := by
  cases h : s.entry? p.age with
  | none => exact absurd (List.find?_eq_none.1 h p hp) (by simp)
  | some q => exact congrArg some (List.inj_on_of_nodup_map hn (State.entry?_mem h) hp (State.entry?_age h))

/-- The commands of a list are pending, each once. -/
structure AllPending (s : State) (ps : List PendingEntry) : Prop where
  entry : ∀ p ∈ ps, s.entry? p.age = some p
  nodup : (ps.map (·.age)).Nodup

section

variable {s t : State} {p : PendingEntry} {ps qs : List PendingEntry}

theorem AllPending.congr (h : AllPending s ps) (ht : t.intake.table = s.intake.table) : AllPending t ps :=
  ⟨fun p hp => by simpa only [State.entry?, ht] using h.entry p hp, h.nodup⟩

theorem AllPending.sublist (h : AllPending s ps) (hq : qs.Sublist ps) : AllPending s qs :=
  ⟨fun p hp => h.entry p (hq.subset hp), h.nodup.sublist (hq.map _)⟩

/-- Answering one of the commands leaves the others pending. -/
theorem AllPending.answeredBy (h : AllPending s (p :: ps)) (a : Answer) : AllPending (answeredBy s p a) ps := by
  obtain ⟨hnot, hnodup⟩ := List.nodup_cons.1 h.nodup
  refine ⟨fun q hq => State.entry_answeredBy (h.entry q (List.mem_cons_of_mem _ hq)) (fun he => hnot ?_) a, hnodup⟩
  exact List.mem_map.2 ⟨q, hq, he⟩

end

/-! ### Commands answered one after another -/

/-- Nobody waits for a backlog entry, and no BARRIER waits. -/
structure Quiet (s : State) : Prop where
  claimants : s.cpl.claimants = []
  barriers : s.intake.barriers = []

theorem Quiet.answeredBy {s : State} (h : Quiet s) (p : PendingEntry) (a : Answer) : Quiet (answeredBy s p a) :=
  ⟨h.claimants, by simp [Machine.answeredBy, h.barriers]⟩

theorem Quiet.barrierClaims {s : State} (h : Quiet s) (p : PendingEntry) : barrierClaims s p = [] := by
  simp [Machine.barrierClaims, barriersBehind_none h.barriers]

theorem Quiet.backlogOpen_iff {s : State} (h : Quiet s) : s.backlogOpen = true ↔ s.cpl.backlog.length < 32 := by
  simp [State.backlogOpen_iff, h.claimants]

/-- The commands of a list have been answered, in order. -/
def answeredAll (s : State) (items : List (PendingEntry × Answer)) : State :=
  items.foldl (fun t q => answeredBy t q.1 q.2) s

/-- The claim of a command with its answer. -/
def claimOf (q : PendingEntry × Answer) : Claim := .command q.1.age q.2

/-- A kept STOP or ABORT with its answer. -/
def tailOf (q : PendingEntry × Answer) : TailItem := ⟨q.1.age, q.2⟩

section

variable (s : State) (items : List (PendingEntry × Answer))

theorem answeredAll_apart : (answeredAll s items).apart = s.apart := by
  induction items generalizing s with
  | nil => rfl
  | cons q items ih => exact (ih _).trans (answeredBy_apart s q.1 q.2)

theorem answeredAll_backlog : (answeredAll s items).cpl.backlog =
    s.cpl.backlog ++ items.map fun q => completionOf q.1 q.2 s.timeBase := by
  induction items generalizing s with
  | nil => exact (List.append_nil _).symm
  | cons q items ih => exact (ih _).trans (List.append_assoc ..)

theorem answeredAll_table : (answeredAll s items).intake.table =
    s.intake.table.filter fun e => !(items.map (·.1.age)).contains e.age := by
  induction items generalizing s with
  | nil => exact (List.filter_eq_self.2 fun _ _ => rfl).symm
  | cons q items ih =>
    refine (ih _).trans ?_
    simp only [answeredBy, List.filter_filter, List.map_cons, List.contains_cons, Bool.not_or]
    exact List.filter_congr fun e _ => Bool.and_comm _ _

end

theorem Quiet.answeredAll {s : State} (h : Quiet s) (items : List (PendingEntry × Answer)) :
    Quiet (answeredAll s items) := by
  induction items generalizing s with
  | nil => exact h
  | cons q items ih => exact ih (h.answeredBy q.1 q.2)

/-- Answering some of the commands leaves the others pending. -/
theorem AllPending.answeredAll {s : State} {items : List (PendingEntry × Answer)} {ps : List PendingEntry}
    (h : AllPending s (items.map (·.1) ++ ps)) : AllPending (answeredAll s items) ps := by
  induction items generalizing s with
  | nil => exact h
  | cons q items ih => exact ih (h.answeredBy q.2)

/-- Commands handed in one after another join as far as the backlog has room, and the others wait (R20). -/
theorem State.handInUpTo_answers {items : List (PendingEntry × Answer)} {n : Nat} {s : State} (hs : Quiet s)
    (hp : AllPending s (items.map (·.1))) (hn : items.length ≤ n) :
    State.handInUpTo n (items.map claimOf) s =
      (answeredAll s (items.take (32 - s.cpl.backlog.length))).wait
        ((items.drop (32 - s.cpl.backlog.length)).map claimOf) := by
  induction items generalizing n s with
  | nil => simp [State.handInUpTo_nil, answeredAll, State.wait]
  | cons q items ih =>
    by_cases hopen : s.cpl.backlog.length < 32
    · obtain ⟨n, rfl⟩ : ∃ k, n = k + 1 := ⟨n - 1, by simp at hn; omega⟩
      have hroom : 32 - s.cpl.backlog.length = 32 - (answeredBy s q.1 q.2).cpl.backlog.length + 1 := by
        simp only [answeredBy, List.length_append, List.length_singleton]
        omega
      have hfirst : s.joinClaim (claimOf q) = (answeredBy s q.1 q.2, []) := by
        rw [← hs.barrierClaims q.1]
        exact State.joinCommand_eq (hp.entry q.1 (List.mem_cons_self ..)) q.2
      rw [List.map_cons, State.handInUpTo_open _ _ _ (hs.backlogOpen_iff.2 hopen), hfirst, List.append_nil,
        ih (hs.answeredBy ..) (hp.answeredBy _) (Nat.le_of_succ_le_succ hn), hroom]
      rfl
    · rw [State.handInUpTo_closed _ _ (by simpa using mt hs.backlogOpen_iff.1 hopen),
        show 32 - s.cpl.backlog.length = 0 by omega]
      rfl

/-- The STOPs and ABORTs of a run join one after another; then the outputs take the run end (R87, R177, log 33). -/
theorem State.handInUpTo_runTail {items : List (PendingEntry × Answer)} {n : Nat} {s : State} {c : CtxId}
    (hs : Quiet s) (hp : AllPending s (items.map (·.1))) (hne : items ≠ [])
    (hroom : s.cpl.backlog.length + items.length ≤ 32) :
    State.handInUpTo (n + items.length) [.runTail c (items.map tailOf)] s =
      State.handInUpTo n (runEventClaims s .runEnd c)
        { answeredAll s items with outs := s.outs.map fun o => outputAfter o .runEnd c } := by
  induction items generalizing s with
  | nil => exact absurd rfl hne
  | cons q items ih =>
    simp only [List.length_cons] at hroom
    have hopen : s.backlogOpen = true := hs.backlogOpen_iff.2 (by omega)
    have hentry := hp.entry q.1 (List.mem_cons_self ..)
    rw [List.length_cons, ← Nat.add_assoc, State.handInUpTo_open _ _ _ hopen, List.nil_append]
    rcases items with _ | ⟨q', items⟩
    · have hjoin : s.joinClaim (.runTail c ([q].map tailOf)) = _ := State.joinTail_last hentry c q.2
      rw [hjoin, hs.barrierClaims, List.append_nil]
      rfl
    · have hjoin : s.joinClaim (.runTail c ((q :: q' :: items).map tailOf)) = _ :=
        State.joinTail_more (more := (q' :: items).map tailOf) hentry c q.2 (by simp)
      rw [hjoin, hs.barrierClaims]
      refine (ih (hs.answeredBy ..) (hp.answeredBy _) (by simp) ?_).trans rfl
      simp only [answeredBy, List.length_append, List.length_singleton]
      omega

/-! ### The end of a run -/

theorem Quiet.armAnswered {s : State} (h : Quiet s) (c : CtxId) (arm : PendingEntry) (reason : EndReason) :
    Quiet (armAnswered s c arm reason) :=
  ⟨h.claimants, (h.answeredBy arm ((s.ctx c).run.armAnswer reason)).barriers⟩


/-- A flush with no frame left and no buffer open or due only clears the fault limit (R155). -/
theorem Ctx.settled_done {x : Ctx} (hf : x.cap.store = []) (hw : x.cap.writing = false) (hr : x.cap.returns = [])
    (hq : ∀ b ∈ x.cap.queue, b.opened = false ∧ b.due = none) :
    x.settled = { x with cap := { x.cap with
      faultLimit := if x.state = .stopping then none else x.cap.faultLimit } } := by
  have hgive : x.giveUpFrames = x := if_neg fun h => h.2 hf
  have hopen : x.openPartial = x :=
    Ctx.openPartial_closed fun b behind h => .inl (hq b (h ▸ List.mem_cons_self ..)).1
  have hdone : x.flushDone = true := by
    cases hqueue : x.cap.queue with
    | nil => simp [Ctx.flushDone, hf, hr, hqueue]
    | cons b behind => simp [Ctx.flushDone, hf, hr, hqueue, hq b (hqueue ▸ List.mem_cons_self ..)]
  unfold Ctx.settled
  by_cases hst : x.state = .stopping
  · simp only [hst, hw, hgive, hopen, Ctx.clearLimit, hdone, if_true]
    rfl
  · simp only [hst, if_false, false_and]

/-- A context of which something is due and that is not in line claims an entry (R20). -/
theorem State.contextClaim_due {s : State} {c : CtxId} {next : NextHandIn}
    (hn : (s.ctx c).nextHandIn (s.holdsConverter c) = some next) (hc : .context c ∉ s.cpl.claimants) :
    s.contextClaim c = [.context c] := by
  simp [State.contextClaim, hn, hc]

/-- The completions of the ARM, the STOPs and the ABORTs have joined, the context has left its run, and the outputs have
taken the run end (R87, R177). -/
def runEndAnswered (s : State) (c : CtxId) (arm : PendingEntry) (reason : EndReason)
    (items : List (PendingEntry × Answer)) : State :=
  { answeredAll (armAnswered s c arm reason) items with outs := s.outs.map fun o => outputAfter o .runEnd c }

section

variable {s : State} {c : CtxId} {arm : PendingEntry} {reason : EndReason} {items : List (PendingEntry × Answer)}

theorem runEndAnswered_backlog : (runEndAnswered s c arm reason items).cpl.backlog =
    s.cpl.backlog ++ completionOf arm ((s.ctx c).run.armAnswer reason) s.timeBase ::
      items.map fun q => completionOf q.1 q.2 s.timeBase :=
  (answeredAll_backlog _ _).trans (List.append_assoc ..)

theorem runEndAnswered_table : (runEndAnswered s c arm reason items).intake.table =
    s.intake.table.filter fun e => !((arm :: items.map (·.1)).map (·.age)).contains e.age := by
  refine (answeredAll_table _ _).trans ?_
  simp only [armAnswered, State.setCtx_intake, answeredBy, List.filter_filter, List.map_cons, List.map_map,
    List.contains_cons, Bool.not_or]
  exact List.filter_congr fun e _ => Bool.and_comm _ _

theorem runEndAnswered_ctx : (runEndAnswered s c arm reason items).ctx c = (s.ctx c).leaveRun reason :=
  (State.ctx_congr (State.apart_ctxs (answeredAll_apart _ _)) c).trans (ctx_armAnswered s c arm reason)

theorem runEndAnswered_timeBase : (runEndAnswered s c arm reason items).timeBase = s.timeBase :=
  (State.apart_timeBase (answeredAll_apart (armAnswered s c arm reason) items) :)

theorem runEndAnswered_quiet (hs : Quiet s) : Quiet (runEndAnswered s c arm reason items) :=
  have hall := (hs.armAnswered c arm reason).answeredAll items
  ⟨hall.claimants, hall.barriers⟩

/-- The ARM completion, the STOPs' and the ABORTs' join; then the outputs take the run end (R87, R177, log 33). -/
theorem State.handIn_runEnd (hs : Quiet s) (hp : AllPending s (arm :: items.map (·.1)))
    (hn : (s.ctx c).nextHandIn (s.holdsConverter c) = some (.armAnswer arm.age reason))
    (hr : (s.ctx c).cap.returns = []) (hq : ∀ b later, (s.ctx c).cap.queue = b :: later → b.due = none)
    (ht : (s.ctx c).run.tail reason = items.map tailOf) (hroom : s.cpl.backlog.length + 1 + items.length ≤ 32) :
    s.handIn [.context c] =
      State.handInUpTo (95 - items.length) (runEventClaims s .runEnd c)
        (runEndAnswered s c arm reason items) := by
  have hopen : s.backlogOpen = true := hs.backlogOpen_iff.2 (by omega)
  have harm := hp.entry arm (List.mem_cons_self ..)
  have hfirst : s.handIn [.context c] = State.handInUpTo 95 (s.joinContext c).2 (s.joinContext c).1 :=
    State.handInUpTo_open 95 _ _ hopen
  have hctx := ctx_armAnswered s c arm reason
  rw [hfirst]
  by_cases hnone : items = []
  · subst hnone
    rw [State.joinContext_arm hn hr hq (State.joinArm_alone harm ht) hctx, hs.barrierClaims, List.append_nil]
    rfl
  · have htail : (s.ctx c).run.tail reason ≠ [] := by simpa [ht] using hnone
    have hquiet : Quiet (armAnswered s c arm reason) := hs.armAnswered c arm reason
    have hpending : AllPending (armAnswered s c arm reason) (items.map (·.1)) :=
      (hp.answeredBy ((s.ctx c).run.armAnswer reason)).congr rfl
    have hlen : (armAnswered s c arm reason).cpl.backlog.length + items.length ≤ 32 := by
      simp [armAnswered, answeredBy, hroom]
    have hfuel : 95 = 95 - items.length + items.length := by omega
    rw [State.joinContext_arm hn hr hq (State.joinArm_tail harm htail) hctx, hs.barrierClaims, ht]
    exact (congrArg (State.handInUpTo · _ _) hfuel).trans (State.handInUpTo_runTail hquiet hpending hnone hlen)

end

/-- The update of an output that a run event of a context applies (R177). -/
def State.dueUpdate (s : State) (event : RunEvent) (c : CtxId) (n : Fin 2) : Option (Fin 2 × Deferred) :=
  match (s.out n).update with
  | some d => if d.event = event ∧ d.ctx = c then some (n, d) else none
  | none => none

/-- The answer of an update that has been applied: OK, with the output, its code and the code before (R176). -/
def State.appliedAnswer (s : State) (u : Fin 2 × Deferred) : Answer :=
  ⟨.command .ok, word u.1.val, u.2.code.setWidth 32, (s.out u.1).code.setWidth 32, some s.timeBase⟩

/-- The claims of a run event are those of the updates it applies, output 0's first (R177). -/
theorem runEventClaims_eq (s : State) (event : RunEvent) (c : CtxId) :
    runEventClaims s event c =
      (([0, 1] : List (Fin 2)).filterMap (s.dueUpdate event c)).map fun u =>
        .command u.2.entry (s.appliedAnswer u) := by
  have hone (n : Fin 2) : outputClaim n (s.out n) event c s.timeBase =
      (s.dueUpdate event c n).toList.map fun u => .command u.2.entry (s.appliedAnswer u) := by
    unfold outputClaim State.dueUpdate
    cases (s.out n).update with
    | none => rfl
    | some d => by_cases h : d.event = event ∧ d.ctx = c <;> simp [h, State.appliedAnswer, word]
  rw [runEventClaims, hone 0, hone 1, ← List.map_append, List.filterMap_eq_flatMap_toList]
  simp only [List.flatMap_cons, List.flatMap_nil, List.append_nil]

/-- A run end handed in whole: its own completions have joined, and of the updates it applies as many as there is room
for, while the others wait (R20, R87, R177). -/
def runEndHandedIn (s : State) (c : CtxId) (arm : PendingEntry) (reason : EndReason)
    (items given : List (PendingEntry × Answer)) (room : Nat) : State :=
  (answeredAll (runEndAnswered s c arm reason items) (given.take room)).wait ((given.drop room).map claimOf)

section

variable (s : State) (c : CtxId) (arm : PendingEntry) (reason : EndReason) (items given : List (PendingEntry × Answer))
  (room : Nat)

theorem runEndHandedIn_backlog : (runEndHandedIn s c arm reason items given room).cpl.backlog =
    s.cpl.backlog ++ completionOf arm ((s.ctx c).run.armAnswer reason) s.timeBase ::
      (items ++ given.take room).map fun q => completionOf q.1 q.2 s.timeBase := by
  refine (answeredAll_backlog _ _).trans ?_
  rw [runEndAnswered_timeBase, runEndAnswered_backlog, List.map_append, List.append_assoc, List.cons_append]

theorem runEndHandedIn_claimants (hs : Quiet s) : (runEndHandedIn s c arm reason items given room).cpl.claimants =
    (given.drop room).map claimOf :=
  congrArg (· ++ (given.drop room).map claimOf) ((runEndAnswered_quiet hs).answeredAll (given.take room)).claimants

theorem runEndHandedIn_outs : (runEndHandedIn s c arm reason items given room).outs =
    s.outs.map fun o => outputAfter o .runEnd c :=
  State.apart_outs (answeredAll_apart (runEndAnswered s c arm reason items) (given.take room))

theorem runEndHandedIn_ctx : (runEndHandedIn s c arm reason items given room).ctx c = (s.ctx c).leaveRun reason :=
  (State.ctx_congr (State.apart_ctxs (answeredAll_apart _ (given.take room))) c).trans runEndAnswered_ctx

theorem runEndHandedIn_table : (runEndHandedIn s c arm reason items given room).intake.table =
    s.intake.table.filter fun e =>
      !((arm :: (items ++ given.take room).map (·.1)).map (·.age)).contains e.age := by
  refine (answeredAll_table _ _).trans ?_
  rw [runEndAnswered_table, List.filter_filter]
  refine List.filter_congr fun e _ => ?_
  rw [List.map_append, ← List.cons_append, List.map_append, List.map_map, List.contains_append, Bool.not_or,
    Bool.and_comm]
  rfl

end

/-- The run end of a context whose ARM completion is due, with room for its own completions (R20, R87, R177). -/
theorem State.handIn_runEnd_updates {s : State} {c : CtxId} {arm : PendingEntry} {reason : EndReason}
    {items given : List (PendingEntry × Answer)} (hs : Quiet s)
    (hp : AllPending s (arm :: (items.map (·.1) ++ given.map (·.1))))
    (hn : (s.ctx c).nextHandIn (s.holdsConverter c) = some (.armAnswer arm.age reason))
    (hr : (s.ctx c).cap.returns = []) (hq : ∀ b later, (s.ctx c).cap.queue = b :: later → b.due = none)
    (ht : (s.ctx c).run.tail reason = items.map tailOf)
    (hclaims : runEventClaims s .runEnd c = given.map claimOf) {room : Nat}
    (hroom : s.cpl.backlog.length + 1 + items.length + room = 32) :
    s.handIn [.context c] = runEndHandedIn s c arm reason items given room := by
  have hrun : AllPending s (arm :: items.map (·.1)) :=
    hp.sublist ((List.sublist_append_left _ _).cons_cons arm)
  have hgiven : AllPending (runEndAnswered s c arm reason items) (given.map (·.1)) :=
    (AllPending.answeredAll ((hp.answeredBy ((s.ctx c).run.armAnswer reason)).congr
      (t := armAnswered s c arm reason) rfl)).congr rfl
  have hlen : given.length ≤ 2 := by
    have hmap := congrArg List.length hclaims
    have hfilter := List.length_filterMap_le (s.dueUpdate .runEnd c) [0, 1]
    rw [runEventClaims_eq, List.length_map, List.length_map] at hmap
    exact hmap ▸ hfilter
  have hleft : 32 - (runEndAnswered s c arm reason items).cpl.backlog.length = room := by
    simp only [runEndAnswered_backlog, List.length_append, List.length_cons, List.length_map]
    omega
  rw [State.handIn_runEnd hs hrun hn hr hq ht (by omega), hclaims,
    State.handInUpTo_answers (runEndAnswered_quiet hs) hgiven (by omega), hleft]
  rfl

/-- Commands paired with what gives their answers: their claims, where the numbers agree. -/
theorem zipWith_claims {β : Type} {entry : β → Nat} (f : β → Answer) :
    ∀ {ps : List PendingEntry} {us : List β}, us.map entry = ps.map (·.age) →
      (List.zipWith (fun p u => (p, f u)) ps us).map claimOf = us.map (fun u => .command (entry u) (f u)) ∧
      (List.zipWith (fun p u => (p, f u)) ps us).map (·.1) = ps
  | [], [], _ => ⟨rfl, rfl⟩
  | p :: ps, u :: us, h => by
    obtain ⟨hage, hrest⟩ := List.cons.inj h
    obtain ⟨hclaims, hfst⟩ := zipWith_claims f hrest
    simp [claimOf, hage, hclaims, hfst]

/-- Settles O42: what is due is the ARM completion; with room the run's completions join in order, then the updates as
far as there is room; with none the context waits. -/
theorem runEndAnswersArmThenStopsThenAborts : Obligations.RunEndAnswersArmThenStopsThenAborts := by
  intro s c reason arm x limit line updates applied hst hend harm hstore hwriting hreturns hqueue hholds
  let x1 : Ctx := { x with cap := { x.cap with faultLimit := limit } }
  let s1 : State := s.setCtx c x1
  have hsettled : x.settled = x1 := Ctx.settled_done hstore hwriting hreturns hqueue
  have hctx : s1.ctx c = x1 := State.ctx_setCtx_self _ _ _
  have hdue : ∀ b later, x1.cap.queue = b :: later → b.due = none :=
    fun b later h => (hqueue b (h ▸ List.mem_cons_self ..)).2
  have hnext : (s1.ctx c).nextHandIn (s1.holdsConverter c) = some (.armAnswer arm.age reason) := by
    rw [hctx, show s1.holdsConverter c = false from hholds, Ctx.nextHandIn_armDue (x := x1) _ hreturns hdue]
    exact Ctx.armDue_ended (x := x1) hend harm hst hstore hwriting
  have hsettle (hc : .context c ∉ s.cpl.claimants) : s.settleCtx c = s1.handIn [.context c] := by
    have hmod : s.modCtx c Ctx.settled = s1 := congrArg (s.setCtx c) hsettled
    rw [State.settleCtx, hmod, State.contextClaim_due hnext hc]
  refine ⟨?_, fun hfull hc => ?_⟩
  · intro stops aborts updated all hstops haborts hupdated htable hages hnodup hbarriers hclaimants hroom room t
    let items : List (PendingEntry × Answer) :=
      stops.map (fun p => (p, answer (if reason = .aborted then .overtaken else .ok) (word reason.code) 0 0)) ++
        aborts.map fun p => (p, answer .ok 0 0 0)
    let given : List (PendingEntry × Answer) := List.zipWith (fun p u => (p, applied u.1 u.2)) updated updates
    have hquiet : Quiet s1 := ⟨hclaimants, hbarriers⟩
    have hitems : items.map (·.1) = stops ++ aborts := by simp [items, Function.comp_def]
    obtain ⟨hgivenClaims, hgivenFst⟩ := zipWith_claims (fun u => applied u.1 u.2) hupdated
    have hpending : AllPending s1 (arm :: (items.map (·.1) ++ given.map (·.1))) := by
      rw [hitems, hgivenFst]
      exact ⟨fun p hp => State.entry?_of_mem hages (htable p hp), hnodup⟩
    have htail : (s1.ctx c).run.tail reason = items.map tailOf := by
      rw [hctx, Run.tail, show x1.run.stops = _ from hstops, show x1.run.aborts = _ from haborts]
      simp [items, tailOf, Function.comp_def]
    have hclaims : runEventClaims s1 .runEnd c = given.map claimOf :=
      (runEventClaims_eq s1 .runEnd c).trans hgivenClaims.symm
    have hlength : s1.cpl.backlog.length + 1 + items.length + room = 32 := by
      simp only [items, List.length_append, List.length_map, s1, State.setCtx_cpl]
      omega
    have ht : t = runEndHandedIn s1 c arm reason items given room :=
      (hsettle (by simp [hclaimants])).trans
        (State.handIn_runEnd_updates hquiet hpending hnext (hctx.symm ▸ hreturns) (hctx.symm ▸ hdue) htail hclaims
          hlength)
    rw [ht]
    refine ⟨?_, ?_, runEndHandedIn_outs s1 .., ?_, ?_⟩
    · rw [runEndHandedIn_backlog, hctx, List.map_append, List.map_append, List.map_map, List.map_map, List.map_take,
        List.map_zipWith]
      rfl
    · rw [runEndHandedIn_claimants _ _ _ _ _ _ _ hquiet, List.map_drop, hgivenClaims, List.map_drop]
    · rw [runEndHandedIn_ctx, hctx, Ctx.leaveRun, EndReason.stateAfter_eq]
    · rw [runEndHandedIn_table, List.map_append, hitems, List.map_take, hgivenFst]
      rfl
  · have hclosed : s1.backlogOpen = false := by
      rw [← Bool.not_eq_true, State.backlogOpen_iff]
      exact hfull
    rw [hsettle hc]
    exact State.handInUpTo_closed _ _ hclosed

end Sys2Proof.Machine
end

section
/-!
PROOFS. A step of the queue, the tick latch, and the two commands that bring a context a tick of its own: INTERNAL_TICK
and PULSE.
-/

namespace Sys2Proof.Machine

open Sys2Proof

-- One thread at a time: each thread of a parallel proof reserves 1 GiB of the check's memory limit.
set_option Elab.async false

/-! ### The queue -/

theorem step_cons {s : State} {c : Instr} {behind : List Instr} (h : s.pending = c :: behind) :
    step s = exec c { s with pending := behind } := by
  simp only [step, h]

/-- With an empty queue the block idles for one count (R94, log 2). -/
theorem step_idle {s : State} (h : s.pending = []) : step s = .next s.tickTime := by
  simp only [step, h]

/-- Settles O1: the queue has a front, or is empty. -/
theorem stepDoesTheFrontCommandOrCountsTime : Obligations.StepDoesTheFrontCommandOrCountsTime :=
  ⟨fun _ _ => step_cons rfl, fun _ => step_idle⟩

/-! ### The tick latch -/

/-- Which ticks begin a scan (R102, R103). -/
theorem Ctx.tickBeginsScan_iff (x : Ctx) :
    x.tickBeginsScan = true ↔ x.definition.mode = .scan ∨ x.pacing.nextPos = 0 := by
  simp only [Ctx.tickBeginsScan, Bool.or_eq_true, beq_iff_eq]

section

variable {s : State} {c : CtxId}

/-- In phase OFF no tick is taken (R106). -/
theorem State.deliverTick_off (hp : (s.ctx c).pacing.phase = .off) : s.deliverTick c = (s, .notTaken) := if_pos hp

/-- At a scan start no tick is taken once the count is reached (R106). -/
theorem State.deliverTick_counted (hp : (s.ctx c).pacing.phase ≠ .off) (ht : (s.ctx c).pacing.tick = .free)
    (hb : (s.ctx c).definition.mode = .scan ∨ (s.ctx c).pacing.nextPos = 0)
    (hc : (s.ctx c).pacing.countReached = true) : s.deliverTick c = (s, .notTaken) := by
  rw [State.deliverTick, if_neg hp, if_pos ht, if_pos ((Ctx.tickBeginsScan_iff _).2 hb), if_pos hc]

/-- In the middle of a STEP scan a tick is latched for the next position (R102, R103). -/
theorem State.deliverTick_position (hp : (s.ctx c).pacing.phase ≠ .off) (ht : (s.ctx c).pacing.tick = .free)
    (hb : ¬((s.ctx c).definition.mode = .scan ∨ (s.ctx c).pacing.nextPos = 0)) :
    s.deliverTick c = ((s.setCtx c (s.ctx c).latch).arbitrate, .taken (s.ctx c).pacing.nextPos) := by
  rw [State.deliverTick, if_neg hp, if_pos ht, if_neg (mt (Ctx.tickBeginsScan_iff _).1 hb)]
  rfl

/-- A tick that finds the latch occupied is a slip (R105). -/
theorem State.deliverTick_slip (hp : (s.ctx c).pacing.phase ≠ .off) (ht : (s.ctx c).pacing.tick ≠ .free) :
    s.deliverTick c = (s.setCtx c (s.ctx c).slipped, .slip) := by
  rw [State.deliverTick, if_neg hp, if_neg ht]
  rfl

end

/-- A slip in phase HISTORY leaves no trace (R105). -/
theorem Ctx.slipped_history {x : Ctx} (hp : x.pacing.phase = .history) : x.slipped = x := by
  simp only [Ctx.slipped, hp]

/-- A slip in phase RUN is counted, and with policy COUNT that is all (R105). -/
theorem Ctx.slipped_count {x : Ctx} (hp : x.pacing.phase = .run) (hpol : x.definition.slipPolicy = .count) :
    x.slipped = { x with run := { x.run with slips := x.run.slips + 1 } } := by
  simp only [Ctx.slipped, hp, hpol]

/-- With policy HALT the slip counted begins the fault end (R85, R105). -/
theorem Ctx.slipped_halt {x : Ctx} (hp : x.pacing.phase = .run) (hpol : x.definition.slipPolicy = .halt) :
    x.slipped = faultEnded { x with run := { x.run with slips := x.run.slips + 1 } } .pacingOverrun := by
  simp only [Ctx.slipped, hp, hpol, Ctx.faultEnd_eq]

/-- A context replaced by itself. -/
theorem State.setCtx_ctx (s : State) (c : CtxId) : s.setCtx c (s.ctx c) = s := by
  simp [State.setCtx, State.ctx]

/-- Settles O36, by the phase, the latch and the position; a slip by the phase and the policy. -/
theorem tickLatchHoldsOneTick : Obligations.TickLatchHoldsOneTick := by
  intro s c x begins slipped
  have hslip {y : Ctx} (hp : x.pacing.phase ≠ .off) (ht : x.pacing.tick ≠ .free) (hy : x.slipped = y) :
      s.deliverTick c = (s.setCtx c y, .slip) := by
    rw [← hy]
    exact State.deliverTick_slip hp ht
  refine ⟨State.deliverTick_off, State.deliverTick_counted, State.deliverTick_position, fun hp ht => ?_,
    fun hp ht hpol => hslip (by simp [hp]) ht (Ctx.slipped_count hp hpol),
    fun hp ht hpol => hslip (by simp [hp]) ht (Ctx.slipped_halt hp hpol)⟩
  rw [hslip (by simp [hp]) ht (Ctx.slipped_history hp), State.setCtx_ctx]

/-! ### INTERNAL_TICK -/

/-- The next index of the divider is the first that is neither delivered nor past (R98, log 4). -/
theorem Pacing.nextTick_eq {p : Pacing} {period k : Nat} {now : Time} (hperiod : 0 < period) (hnew : p.ticks ≤ k)
    (hdue : now.toNat ≤ p.origin.toNat + k * period)
    (hfirst : k = p.ticks ∨ p.origin.toNat + (k - 1) * period < now.toNat) : p.nextTick period now = k := by
  let waited := now.toNat - p.origin.toNat
  have hceil : (waited + (period - 1)) / period ≤ k := by
    have hle : waited + (period - 1) < (k + 1) * period := by
      rw [Nat.succ_mul]
      omega
    exact Nat.lt_succ_iff.1 ((Nat.div_lt_iff_lt_mul hperiod).2 hle)
  rcases hfirst with hk | hpast
  · exact hk ▸ Nat.max_eq_left (hk ▸ hceil)
  · have hceil' : k ≤ (waited + (period - 1)) / period := by
      rw [Nat.le_div_iff_mul_le hperiod]
      cases k with
      | zero => omega
      | succ j =>
        rw [Nat.add_sub_cancel] at hpast
        rw [Nat.succ_mul]
        omega
    rw [Pacing.nextTick, Nat.le_antisymm hceil hceil', Nat.max_eq_right hnew]

/-- The divider's tick of an index reaches the latch at its instant (R98). -/
theorem State.internalTick_eq {s : State} {c : CtxId} {period k : Nat}
    (hk : (s.ctx c).pacing.nextTick period s.timeBase = k) :
    s.internalTick c period =
      (((s.advanceTo ((s.ctx c).pacing.origin + BitVec.ofNat 64 (k * period))).setCtx c
        { s.ctx c with pacing := { (s.ctx c).pacing with ticks := k + 1 } }).deliverTick c).1.settleCtx c := by
  rw [← hk]
  rfl

/-- INTERNAL_TICK of a context with a divider on an ONLINE device (R98, R106). -/
theorem exec_internalTick {s : State} {c : CtxId} {period : Nat} (hd : s.link.device = .online)
    (hs : (s.ctx c).definition.source = .internal period) (read : ReadOrder) :
    exec (.internalTick ⟨c, read⟩) s =
      .next (if (s.ctx c).pacing.phase = .off then s else (s.internalTick c period).readBy s read) := by
  simp only [exec, execInternalTick, hd, hs]

/-- Settles O38: the phase decides whether there is a tick, and `nextTick_eq` which. -/
theorem internalTickComesAtItsInstant : Obligations.InternalTickComesAtItsInstant := by
  intro s c period k read x instant hd hs hperiod
  rw [exec_internalTick hd hs]
  refine ⟨fun hp => congrArg Host.Outcome.next (if_pos hp), fun hp hnew hdue hfirst => ?_⟩
  have hk : x.pacing.nextTick period s.timeBase = k := Pacing.nextTick_eq hperiod hnew hdue hfirst
  rw [if_neg hp, State.internalTick_eq hk, State.advanceTo_eq, State.readBy_eq]
  rfl

/-! ### PULSE -/

/-- Which contexts take a PULSE as a tick (R100). -/
theorem Ctx.takesPulse_iff (x : Ctx) :
    x.takesPulse = true ↔ x.definition.source = .soft ∧ x.pacing.phase ≠ .off := by
  simp only [Ctx.takesPulse, Bool.and_eq_true, beq_iff_eq, bne_iff_ne]

/-- The answer of a PULSE that is a tick taken (R100). -/
theorem pulseAnswer_taken (mode : PaceMode) (position : Nat) :
    pulseAnswer mode (.taken position) = answer .ok 1 (if mode = .step then word position else 0) 0 := by
  cases mode <;> rfl

section

variable {s : State} {src : RingId} {c : CtxId} {p : PendingEntry} (h : Taken s src (.pulse c) p) (read : ReadOrder)
include h

/-- A PULSE outside the active states (R100). -/
theorem Taken.exec_pulse_refused (hst : (s.ctx c).state ∉ [.armed, .running, .stopping]) :
    exec (.pulse src ⟨c, read⟩) s =
      .next ((s.takeDispatched src).handIn [.command p.age (answer .badState 0 0 0)]) := by
  have hinactive : ¬(s.ctx c).state.active = true := by
    rw [CtxState.active_iff]
    simpa using hst
  exact congrArg Host.Outcome.next ((h.ownerTakes _).trans (if_neg hinactive))

/-- A PULSE in the active states, with what became of the tick it is for a context that takes one: its completion is
handed in, then what the tick leads to, and the readings of the event are taken (R100; logs 14 and 29). -/
theorem Taken.exec_pulse_active (hst : (s.ctx c).state ∈ [.armed, .running, .stopping]) {t : State} {o : TickOutcome}
    (ho : (if (s.ctx c).takesPulse then (s.takeDispatched src).deliverTick c
      else (s.takeDispatched src, .notTaken)) = (t, o)) :
    exec (.pulse src ⟨c, read⟩) s =
      .next (readInOrder read s
        ((t.handIn [.command p.age (pulseAnswer (s.ctx c).definition.mode o)]).settleCtx c)) := by
  have hactive : (s.ctx c).state.active = true := by
    rw [CtxState.active_iff]
    simpa using hst
  obtain ⟨rfl, rfl⟩ := Prod.mk.inj ho.symm
  refine congrArg Host.Outcome.next ((h.ownerTakes _).trans ((if_pos hactive).trans ?_))
  rw [State.readBy_eq]
  rfl

end

/-- Settles O35: the state, then whether the context takes ticks, then what became of the tick. -/
theorem pulseIsOneTick : Obligations.PulseIsOneTick := by
  intro s src c read p h u x active ticks own
  have goes (hst : active) {t : State} {o : TickOutcome} {disposition position : Word}
      (ho : (if x.takesPulse then u.deliverTick c else (u, .notTaken)) = (t, o))
      (ha : pulseAnswer x.definition.mode o = answer .ok disposition position 0) :
      exec (.pulse src ⟨c, read⟩) s = .next (own t disposition position) := by
    rw [h.exec_pulse_active read hst ho, ha]
  have tick (hticks : ticks) {o : TickOutcome} (ho : (u.deliverTick c).2 = o) :
      (if x.takesPulse then u.deliverTick c else (u, .notTaken)) = ((u.deliverTick c).1, o) :=
    (if_pos ((Ctx.takesPulse_iff _).2 hticks)).trans (Prod.ext rfl ho)
  exact ⟨fun hst => h.completes (h.exec_pulse_refused read hst) rfl rfl rfl rfl,
    fun hst hn => goes hst (if_neg (mt (Ctx.takesPulse_iff _).1 hn)) rfl,
    fun hst hticks => ⟨fun ho => goes hst (tick hticks ho) rfl,
      fun position ho => goes hst (tick hticks ho) (pulseAnswer_taken _ position),
      fun ho => goes hst (tick hticks ho) rfl⟩⟩

end Sys2Proof.Machine
end

section
/-!
PROOFS. The converter arbiter: its search in priority and turn, and what it grants.
-/

namespace Sys2Proof.Machine

open Sys2Proof

-- One thread at a time: each thread of a parallel proof reserves 1 GiB of the check's memory limit.
set_option Elab.async false

/-! ### The search -/

/-- The context the round robin looks at after `k` others (R119). -/
def inTurn (last : Option CtxId) (k : Nat) : CtxId :=
  match last with
  | none => Fin.ofNat 8 k
  | some l => Fin.ofNat 8 (l.val + 1 + k)

/-- The round robin looks at every context, in turn (R119). -/
theorem searchFrom_eq (last : Option CtxId) : searchFrom last = (List.range 8).map (inTurn last) := by
  revert last
  decide

section

variable {s : State}

/-- The requests that wait are those of the LATCHED contexts (R118). -/
theorem State.mem_requests {c : CtxId} : c ∈ s.requests ↔ (s.ctx c).pacing.tick = .latched := by
  simp [State.requests, allContexts]

/-- A context waits, and none that waits has a lower priority value (R119). -/
def State.FirstInLine (s : State) (c : CtxId) : Prop :=
  (s.ctx c).pacing.tick = .latched ∧
    ∀ d, (s.ctx d).pacing.tick = .latched → (s.ctx c).definition.priority ≤ (s.ctx d).definition.priority

/-- What the search looks for (R119). -/
theorem State.firstInLine_iff {c : CtxId} :
    (s.requests.contains c && s.topPriority s.requests c) = true ↔ s.FirstInLine c := by
  simp only [State.FirstInLine, State.topPriority, Bool.and_eq_true, List.contains_iff_mem, List.all_eq_true,
    decide_eq_true_eq, State.mem_requests]

/-- With no request waiting nobody is chosen (R119). -/
theorem State.chosenRequest_none (h : ∀ c, (s.ctx c).pacing.tick ≠ .latched) : s.chosenRequest = none :=
  List.find?_eq_none.2 fun c _ hc => h c (State.firstInLine_iff.1 hc).1

/-- The first in turn of those first in line is chosen (R119). -/
theorem State.chosenRequest_inTurn {k : Nat} (hk : k < 8) (hc : s.FirstInLine (inTurn s.conv.lastGranted k))
    (hj : ∀ j < k, ¬s.FirstInLine (inTurn s.conv.lastGranted j)) :
    s.chosenRequest = some (inTurn s.conv.lastGranted k) := by
  rw [State.chosenRequest, searchFrom_eq, List.find?_eq_some_iff_getElem]
  refine ⟨State.firstInLine_iff.2 hc, k, by simpa using hk, by simp, fun j hjk => ?_⟩
  rw [Bool.not_eq_true', ← Bool.not_eq_true, State.firstInLine_iff]
  simpa using hj j hjk

/-! ### The selection -/

/-- Off ONLINE, or with the converter held, nothing is selected (R119, R120). -/
theorem State.arbitrate_idle (h : s.link.device ≠ .online ∨ s.conv.holder ≠ .none) : s.arbitrate = s :=
  if_neg fun ⟨hd, hh⟩ => h.elim (· hd) (· hh)

variable (hd : s.link.device = .online) (hh : s.conv.holder = .none)
include hd hh

/-- A calibration request comes before every context (R119). -/
theorem State.arbitrate_calibration (hr : s.conv.calRequest = true) :
    s.arbitrate = { s with conv := { s.conv with holder := .calibration, calRequest := false } } := by
  rw [State.arbitrate, if_pos ⟨hd, hh⟩, if_pos hr]

/-- With no calibration request and nobody chosen nothing is selected (R119). -/
theorem State.arbitrate_nobody (hr : s.conv.calRequest = false) (hn : s.chosenRequest = none) : s.arbitrate = s := by
  simp [State.arbitrate, hd, hh, hr, hn]

/-- With no calibration request the chosen context is served (R119). -/
theorem State.arbitrate_chosen (hr : s.conv.calRequest = false) {c : CtxId} (hc : s.chosenRequest = some c) :
    s.arbitrate = s.grantTo c := by
  simp [State.arbitrate, hd, hh, hr, hc]

end

/-! ### The grant -/

/-- A context is served with a grant: positions from `pos` to `last`, so many counts from now (R104, R116). -/
def State.grantedWith (s : State) (c : CtxId) (pos last counts : Nat) : State :=
  { s.setCtx c { s.ctx c with pacing := { (s.ctx c).pacing with tick := .granted } } with
    conv := { s.conv with
      lastGranted := some c
      holder := .context ⟨c, s.slotAt c pos s.timeBase, last, s.timeBase + BitVec.ofNat 64 counts⟩ } }

/-- In STEP mode the grant is the slot of the next position (R104). -/
theorem State.grantTo_step {s : State} {c : CtxId} (hm : (s.ctx c).definition.mode = .step) :
    s.grantTo c = s.grantedWith c (s.ctx c).pacing.nextPos (s.ctx c).pacing.nextPos
      ((s.ctx c).stepOf (s.ctx c).pacing.nextPos).slotCounts := by
  simp only [State.grantTo, hm]
  rfl

/-- In SCAN mode the grant is the whole scan (R104, R116). -/
theorem State.grantTo_scan {s : State} {c : CtxId} (hm : (s.ctx c).definition.mode = .scan) :
    s.grantTo c = s.grantedWith c 0 (scanPositions (s.ctx c).steps - 1) (scanCounts (s.ctx c).steps) := by
  simp only [State.grantTo, hm]
  rfl

/-- Settles O40: the calibration, then the search, then the grant by the mode. -/
theorem arbiterServesByPriorityThenInTurn : Obligations.ArbiterServesByPriorityThenInTurn := by
  intro s waits top nth
  refine ⟨State.arbitrate_idle, fun hd hh => ⟨State.arbitrate_calibration hd hh, fun hr =>
    ⟨fun hn => State.arbitrate_nobody hd hh hr (State.chosenRequest_none hn), ?_,
      fun c pos st hp hi hg => State.slotAt_eq hp hi hg s.timeBase⟩⟩⟩
  intro k hk hc hj c x granted slot
  have hchosen : s.chosenRequest = some c := State.chosenRequest_inTurn hk hc hj
  have hslot : Step.slotCounts = slot := Step.slotCounts_eq
  rw [State.arbitrate_chosen hd hh hr hchosen, ← hslot]
  exact ⟨State.grantTo_step, State.grantTo_scan⟩

end Sys2Proof.Machine
end

section
/-!
PROOFS. The nonvolatile copies, the live table that a power-on loads from them, and the correction of a sample.
-/

namespace Sys2Proof.Machine

open Sys2Proof

-- One thread at a time: each thread of a parallel proof reserves 1 GiB of the check's memory limit.
set_option Elab.async false

/-! ### The copies -/

theorem NvCopy.valid_iff (n : NvCopy) : n.valid = true ↔ CopyValid n := by
  simp only [NvCopy.valid, CopyValid, CorrEntry.inRange, Bool.and_eq_true, List.all_eq_true, decide_eq_true_eq,
    and_assoc]

section

variable {v : Conversion}

/-- Copy 0 is the newer one if it is valid and copy 1 is not of a higher generation, or not valid (R128). -/
theorem Conversion.newerCopy_first (h0 : CopyValid v.nv[0])
    (h1 : CopyValid v.nv[1] → v.nv[1].generation.toNat ≤ v.nv[0].generation.toNat) : v.newerCopy = some 0 := by
  rw [Conversion.newerCopy, if_pos ((NvCopy.valid_iff _).2 h0),
    if_neg fun ⟨h, hlt⟩ => Nat.not_lt.2 (h1 ((NvCopy.valid_iff _).1 h)) hlt]

/-- Copy 1 is the newer one if it is valid and copy 0 is of a lower generation, or not valid (R128). -/
theorem Conversion.newerCopy_second (h1 : CopyValid v.nv[1])
    (h0 : CopyValid v.nv[0] → v.nv[0].generation.toNat < v.nv[1].generation.toNat) : v.newerCopy = some 1 := by
  have hv := (NvCopy.valid_iff _).2 h1
  by_cases h : v.nv[0].valid = true
  · rw [Conversion.newerCopy, if_pos h, if_pos ⟨hv, h0 ((NvCopy.valid_iff _).1 h)⟩]
  · rw [Conversion.newerCopy, if_neg h, if_pos hv]

/-- With no valid copy none is the newer one (R128). -/
theorem Conversion.newerCopy_none (h0 : ¬CopyValid v.nv[0]) (h1 : ¬CopyValid v.nv[1]) : v.newerCopy = none := by
  rw [Conversion.newerCopy, if_neg (mt (NvCopy.valid_iff _).1 h0), if_neg (mt (NvCopy.valid_iff _).1 h1)]

/-! ### Power-on -/

theorem Conversion.loadTable_some {k : Fin 2} (h : v.newerCopy = some k) :
    v.loadTable.table = v.nv[k.val].entries ∧ v.loadTable.source = v.nv[k.val].kind.source := by
  simp only [Conversion.loadTable, h, and_self]

theorem Conversion.loadTable_none (h : v.newerCopy = none) :
    v.loadTable.table = Vector.replicate 16 ⟨0, 65536⟩ ∧ v.loadTable.source = .default := by
  simp only [Conversion.loadTable, h, CorrEntry.nominal, and_self]

/-- Loading the table looks at the copies alone, which a reset keeps (R128, R135). -/
theorem Conversion.loadTable_softReset :
    v.softReset.loadTable =
      { Conversion.reset with table := v.loadTable.table, source := v.loadTable.source, nv := v.nv } := by
  have hnewer : v.softReset.newerCopy = v.newerCopy := rfl
  simp only [Conversion.loadTable, hnewer]
  cases v.newerCopy <;> rfl

end

/-- POWER_ON is a link reset that loads the live table (R129, R195). -/
theorem exec_powerOn (s : State) :
    exec .powerOn s = .next { freshAfter s with
      conv := { Conversion.reset with
        table := s.conv.loadTable.table, source := s.conv.loadTable.source, nv := s.conv.nv } } := by
  rw [← Conversion.loadTable_softReset]
  rfl

/-- Settles O3: the newer of the valid copies by the rows of R129, and the table loaded from it. -/
theorem powerOnLoadsTheNewerCopy : Obligations.PowerOnLoadsTheNewerCopy := by
  intro s
  exact ⟨_, _, exec_powerOn s,
    fun h0 h1 => Conversion.loadTable_some (Conversion.newerCopy_first h0 fun h => absurd h h1),
    fun h0 h1 => Conversion.loadTable_some (Conversion.newerCopy_second h1 fun h => absurd h h0),
    fun h0 h1 => ⟨fun hle => Conversion.loadTable_some (Conversion.newerCopy_first h0 fun _ => hle),
      fun hlt => Conversion.loadTable_some (Conversion.newerCopy_second h1 fun _ => hlt)⟩,
    fun h0 h1 => Conversion.loadTable_none (Conversion.newerCopy_none h0 h1)⟩

/-! ### Correction -/

theorem clampCode_toNat (v : Int) :
    ((clampCode v).toNat : Int) = if v < 0 then 0 else if 65535 < v then 65535 else v := by
  rw [clampCode, BitVec.toNat_ofNat]
  split
  · omega
  · split <;> omega

/-- The quotient by 65536 rounded with a half upward is the only whole number `n` within half of it (R126). -/
theorem rounded_eq {x n : Int} (hlow : 2 * 65536 * n ≤ 2 * x + 65536) (hhigh : 2 * x + 65536 < 2 * 65536 * (n + 1)) :
    (x + 32768) / 65536 = n := by
  omega

/-- Settles O43: the whole number next to the exact value, then the clamp. -/
theorem correctionRoundsAndClamps : Obligations.CorrectionRoundsAndClamps := by
  intro e raw n exact65536 hlow hhigh
  rw [CorrEntry.correct, rounded_eq hlow hhigh, clampCode_toNat]

end Sys2Proof.Machine
end

section
/-!
PROOFS. Calibration: how CALIBRATE takes the converter, what each measured entry leads to, and the end of a store.
-/

namespace Sys2Proof.Machine

open Sys2Proof

-- One thread at a time: each thread of a parallel proof reserves 1 GiB of the check's memory limit.
set_option Elab.async false

/-! ### CALIBRATE -/

theorem State.anyActive_iff (s : State) :
    s.anyActive = true ↔
      ∃ c : CtxId, (s.ctx c).state = .armed ∨ (s.ctx c).state = .running ∨ (s.ctx c).state = .stopping := by
  simp only [State.anyActive, any_toList_iff, CtxState.active_iff, State.ctx]

section

variable {s : State} {store : Bool} {p : PendingEntry} (h : Taken s 0 (.calibrate store) p)
include h

/-- A second CALIBRATE is refused (R130). -/
theorem Taken.exec_calibrate_inFlight (hentry : s.conv.cal.entry ≠ none) :
    exec (.calibrate store) s =
      .next ((s.takeDispatched 0).handIn [.command p.age (answer .calibrating 0 0 0)]) :=
  congrArg Host.Outcome.next ((h.ownerTakes _).trans (if_pos (Option.isSome_iff_ne_none.2 hentry)))

variable (hentry : s.conv.cal.entry = none)
include hentry

/-- With none in flight CALIBRATE looks for an active context (R130). -/
theorem Taken.exec_calibrate :
    exec (.calibrate store) s =
      .next (if s.anyActive then (s.takeDispatched 0).handIn [.command p.age (answer .converterBusy 0 0 0)]
        else ((s.takeDispatched 0).modConv (·.beginCalibration p.age store)).arbitrate) :=
  congrArg Host.Outcome.next ((h.ownerTakes _).trans
    (if_neg (show ¬s.conv.cal.entry.isSome = true by simp [hentry])))

/-- With no active context and the converter free the calibration is served at once (R119, R131). -/
theorem Taken.exec_calibrate_begins (hidle : ¬s.anyActive = true) (hfree : s.conv.holder = .none) :
    exec (.calibrate store) s = .next { s.takeDispatched 0 with conv := { s.conv with
      holder := .calibration, calRequest := false, cal := ⟨.measuring 0, some p.age, store, []⟩ } } := by
  rw [h.exec_calibrate hentry, if_neg hidle]
  exact congrArg Host.Outcome.next
    (State.arbitrate_calibration (s := (s.takeDispatched 0).modConv (·.beginCalibration p.age store)) h.1 hfree rfl)

end

/-- Settles O44: the two refusals in order, and then the calibration first at the arbiter. -/
theorem calibrateTakesTheConverter : Obligations.CalibrateTakesTheConverter := by
  intro s store p h u active
  have hactive : s.anyActive = true ↔ active := s.anyActive_iff
  refine ⟨fun hentry => h.completes (h.exec_calibrate_inFlight hentry) rfl rfl rfl rfl, fun hentry ha => ?_,
    fun hentry hidle hfree => h.exec_calibrate_begins hentry (mt hactive.1 hidle) hfree⟩
  have hexec := h.exec_calibrate hentry
  rw [if_pos (hactive.2 ha)] at hexec
  exact h.completes hexec rfl rfl rfl rfl

/-! ### The arithmetic of a reading -/

section

variable (k : Fin 16) (low high : Half)

theorem derivedScale_eq :
    derivedScale k low high =
      (2 * (65536 * (if k.val < 8 then 49152 else 57344)) + ((high.toNat : Int) - low.toNat)) /
        (2 * ((high.toNat : Int) - low.toNat)) := by
  by_cases hk : k.val < 8 <;> simp [derivedScale, nominalCodes, roundDiv, hk]

theorem derivedOffset_eq :
    derivedOffset k low high =
      (2 * (low.toNat * (if k.val < 8 then 49152 else 57344) -
          (if k.val < 8 then 8192 else 4096) * ((high.toNat : Int) - low.toNat)) +
          (if k.val < 8 then 49152 else 57344)) /
        (2 * (if k.val < 8 then 49152 else 57344)) := by
  by_cases hk : k.val < 8 <;> simp [derivedOffset, nominalCodes, roundDiv, hk]

/-- The checks of R132 in order, on the difference of the two codes read. -/
theorem calibrationFault_eq :
    calibrationFault k low high =
      if (high.toNat : Int) - low.toNat ≤ 0 then some 2
      else if derivedScale k low high < 61440 ∨ 69632 < derivedScale k low high then some 2
      else if derivedOffset k low high < -2048 ∨ 2047 < derivedOffset k low high then some 1
      else none := by
  have hread : (high.toNat : Int) - low.toNat ≤ 0 ↔ high.toNat ≤ low.toNat := by omega
  simp only [calibrationFault, hread]

end

/-! ### The copy a store writes -/

section

variable {v : Conversion}

/-- With both valid the copy that is not the newer one is written (R128). -/
theorem Conversion.olderCopy_both (h0 : CopyValid v.nv[0]) (h1 : CopyValid v.nv[1]) :
    v.olderCopy = if v.nv[0].generation.toNat < v.nv[1].generation.toNat then 0 else 1 := by
  have hvalid : v.olderCopy = if v.newerCopy = some 0 then 1 else 0 := by
    simp only [Conversion.olderCopy, (NvCopy.valid_iff _).2 h0, (NvCopy.valid_iff _).2 h1, Bool.not_true,
      Bool.false_eq_true, if_false]
  rw [hvalid]
  by_cases hlt : v.nv[0].generation.toNat < v.nv[1].generation.toNat
  · rw [Conversion.newerCopy_second h1 fun _ => hlt, if_pos hlt]
    rfl
  · rw [Conversion.newerCopy_first h0 fun _ => Nat.le_of_not_lt hlt, if_neg hlt]
    rfl

/-- With copy 0 alone valid copy 1 is written (R128). -/
theorem Conversion.olderCopy_firstOnly (h0 : CopyValid v.nv[0]) (h1 : ¬CopyValid v.nv[1]) : v.olderCopy = 1 := by
  have hv : v.nv[1].valid = false := Bool.eq_false_iff.2 (mt (NvCopy.valid_iff _).1 h1)
  simp only [Conversion.olderCopy, (NvCopy.valid_iff _).2 h0, hv, Bool.not_true, Bool.not_false, Bool.false_eq_true,
    if_false, if_true]

/-- A copy 0 that is not valid is written (R128). -/
theorem Conversion.olderCopy_notFirst (h0 : ¬CopyValid v.nv[0]) : v.olderCopy = 0 := by
  have hv : v.nv[0].valid = false := Bool.eq_false_iff.2 (mt (NvCopy.valid_iff _).1 h0)
  simp only [Conversion.olderCopy, hv, Bool.not_false, if_true]

theorem Conversion.nextGeneration_some {k : Fin 2} (h : v.newerCopy = some k) :
    v.nextGeneration = v.nv[k.val].generation + 1 := by
  simp only [Conversion.nextGeneration, h]

theorem Conversion.nextGeneration_none (h : v.newerCopy = none) : v.nextGeneration = 1 := by
  simp only [Conversion.nextGeneration, h]

end

/-! ### What a measured entry leads to -/

/-- A pending command completes when an event of its unit hands in its answer, on a state with the command path as it
was (R16). -/
theorem Completes.of_handIn {s u : State} {i : Instr} {p : PendingEntry} {a : Answer} (hp : s.entry? p.age = some p)
    (hi : exec i s = .next (u.handIn [.command p.age a])) (hintake : u.intake = s.intake) (hcpl : u.cpl = s.cpl)
    (htime : u.timeBase = s.timeBase) : Completes s i p a u := by
  have hu : u.entry? p.age = some p := by rw [← hp, State.entry?, hintake]; rfl
  obtain ⟨hans, hapart⟩ := State.handIn_answered hu a
  refine ⟨_, hi, ?_, hapart⟩
  simpa only [Answered, hintake, hcpl, htime] using hans

theorem State.completeCalibration_eq {s : State} {entry : Nat} (h : s.conv.cal.entry = some entry) (st : Status)
    (w0 w1 w2 : Word) : s.completeCalibration st w0 w1 w2 = s.handIn [.command entry (answer st w0 w1 w2)] := by
  simp only [State.completeCalibration, h]
  rfl

section

variable {s : State} {k : Fin 16} {low high : Half}

theorem exec_calEntryMeasured (hd : s.link.device = .online) (hh : s.conv.holder = .calibration)
    (hk : s.conv.cal.phase = .measuring k) :
    exec (.calEntryMeasured low high) s = .next (s.entryMeasured k low high) := by
  simp only [exec, execCalEntryMeasured, hd, hh, hk]

theorem exec_calStoreDone {copy : Fin 2} (hd : s.link.device = .online) (hk : s.conv.cal.phase = .storing copy) :
    exec .calStoreDone s = .next (s.storeDone copy) := by
  simp only [exec, execCalStoreDone, hd, hk]

/-- The end of a store: the copy is whole, the live table is replaced, and the calibration is answered (R133). -/
theorem State.storeDone_eq {entry : Nat} (he : s.conv.cal.entry = some entry) (copy : Fin 2) :
    s.storeDone copy =
      (s.modConv fun v =>
        ((v.storeCopy copy s.conv.nextGeneration).replaceTable v.cal.readings).endMeasuring).handIn
          [.command entry (answer .ok 1 (word copy.val) s.conv.nextGeneration)] := by
  refine State.completeCalibration_eq ?_ _ _ _ _
  exact he

/-- With no request waiting the arbiter leaves a converter that has been given up as it is (R119). -/
theorem State.arbitrate_givenUp (hd : s.link.device = .online) (hn : ∀ c, (s.ctx c).pacing.tick ≠ .latched)
    {f : Conversion → Conversion} (hh : (f { s.conv with holder := .none }).holder = .none)
    (hr : (f { s.conv with holder := .none }).calRequest = false) :
    (s.freeConverter.modConv f).arbitrate = s.freeConverter.modConv f :=
  State.arbitrate_nobody hd hh hr (State.chosenRequest_none hn)

/-- A good entry before the last leads to the next (R131). -/
theorem State.entryMeasured_next (hf : calibrationFault k low high = none) (hk : k.val < 15) :
    s.entryMeasured k low high =
      s.modConv (·.nextEntry k (s.conv.cal.readings ++ [derivedEntry k low high])) := by
  simp only [State.entryMeasured, hf, hk, if_true]

variable (hd : s.link.device = .online) (hr : s.conv.calRequest = false) (hn : ∀ c, (s.ctx c).pacing.tick ≠ .latched)
include hd hr hn

/-- After a good last entry with STORE the older copy is being written (R133). -/
theorem State.entryMeasured_stores (hf : calibrationFault k low high = none) (hk : ¬k.val < 15)
    (hstore : s.conv.cal.store = true) :
    s.entryMeasured k low high =
      s.freeConverter.modConv (·.beginStore (s.conv.cal.readings ++ [derivedEntry k low high])) := by
  rw [← State.arbitrate_givenUp hd hn (f := (·.beginStore _)) rfl hr]
  simp only [State.entryMeasured, hf, hk, hstore, if_false, if_true]

variable {entry : Nat} (he : s.conv.cal.entry = some entry)
include he

/-- An entry out of tolerance ends the calibration CAL_FAILED (R132). -/
theorem State.entryMeasured_fails {reason : Nat} (hf : calibrationFault k low high = some reason) :
    s.entryMeasured k low high =
      (s.freeConverter.modConv Conversion.endMeasuring).handIn
        [.command entry (answer .calFailed (word k.val) (word reason) 0)] := by
  simp only [State.entryMeasured, hf]
  rw [State.arbitrate_givenUp hd hn rfl hr]
  refine State.completeCalibration_eq ?_ _ _ _ _
  exact he

/-- A good last entry without STORE replaces the live table and ends the calibration (R133). -/
theorem State.entryMeasured_ends (hf : calibrationFault k low high = none) (hk : ¬k.val < 15)
    (hstore : s.conv.cal.store = false) :
    s.entryMeasured k low high =
      (s.freeConverter.modConv fun v =>
        (v.replaceTable (s.conv.cal.readings ++ [derivedEntry k low high])).endMeasuring).handIn
          [.command entry (answer .ok 0 0 0)] := by
  simp only [State.entryMeasured, hf, hk, hstore, if_false, Bool.false_eq_true]
  rw [State.arbitrate_givenUp hd hn rfl hr]
  refine State.completeCalibration_eq ?_ _ _ _ _
  exact he

end

/-- Settles O45: the reading by its first failing check, its place among the sixteen and the STORE flag; and the end of
the store by the newer of the valid copies. -/
theorem calibrationMeasuresStoresAndEnds : Obligations.CalibrationMeasuresStoresAndEnds := by
  intro s k low high p hd he hp hr hn span base read scale offset fault readings table ended valid lower older next
  have hscale : derivedScale k low high = scale := derivedScale_eq k low high
  have hoffset : derivedOffset k low high = offset := derivedOffset_eq k low high
  have hfault : calibrationFault k low high = fault := by
    rw [calibrationFault_eq, hscale, hoffset]
  have hreadings : s.conv.cal.readings ++ [derivedEntry k low high] = readings := by
    rw [derivedEntry, hscale, hoffset]
  have holder {n : Fin 2} (h : older n) : s.conv.olderCopy = n := by
    rcases h with ⟨h0, h1, hn⟩ | ⟨h0, h1, hn⟩ | ⟨h0, hn⟩
    · exact (Conversion.olderCopy_both h0 h1).trans hn.symm
    · exact (Conversion.olderCopy_firstOnly h0 h1).trans hn.symm
    · exact (Conversion.olderCopy_notFirst h0).trans hn.symm
  have hnext {g : Word} (h : next g) : s.conv.nextGeneration = g := by
    obtain ⟨hsecond, hfirst, hfirstOnly, hsecondOnly, hnone⟩ := h
    by_cases h0 : valid 0 <;> by_cases h1 : valid 1
    · by_cases hlt : lower
      · rw [hsecond ⟨h0, h1⟩ hlt]
        exact Conversion.nextGeneration_some (Conversion.newerCopy_second h1 fun _ => hlt)
      · rw [hfirst ⟨h0, h1⟩ hlt]
        exact Conversion.nextGeneration_some (Conversion.newerCopy_first h0 fun _ => Nat.le_of_not_lt hlt)
    · rw [hfirstOnly h0 h1]
      exact Conversion.nextGeneration_some (Conversion.newerCopy_first h0 fun h => absurd h h1)
    · rw [hsecondOnly h0 h1]
      exact Conversion.nextGeneration_some (Conversion.newerCopy_second h1 fun h => absurd h h0)
    · rw [hnone h0 h1]
      exact Conversion.nextGeneration_none (Conversion.newerCopy_none h0 h1)
  rw [← hfault, ← hreadings]
  refine ⟨fun hh hk => ?_, fun copy g hk hg => ?_⟩
  · have hexec := exec_calEntryMeasured (low := low) (high := high) hd hh hk
    refine ⟨fun reason hf => ?_, fun hf hlt => ?_, fun n hf hlast hstore hold => ?_, fun hf hlast hstore => ?_⟩
    · exact .of_handIn hp (hexec.trans (congrArg _ (State.entryMeasured_fails hd hr hn he hf))) rfl rfl rfl
    · exact hexec.trans (congrArg _ (State.entryMeasured_next hf hlt))
    · rw [hexec, State.entryMeasured_stores hd hr hn hf (by omega) hstore, ← holder hold]
      rfl
    · exact .of_handIn hp (hexec.trans (congrArg _ (State.entryMeasured_ends hd hr hn he hf (by omega) hstore)))
        rfl rfl rfl
  · rw [← hnext hg]
    exact .of_handIn hp ((exec_calStoreDone hd hk).trans (congrArg _ (State.storeDone_eq he copy))) rfl rfl rfl

end Sys2Proof.Machine
end

section
/-!
PROOFS. The Capture Engine: a buffer posted, a frame whose write begins and ends, and the flush of a context.
-/

namespace Sys2Proof.Machine

open Sys2Proof

-- One thread at a time: each thread of a parallel proof reserves 1 GiB of the check's memory limit.
set_option Elab.async false

/-! ### POST_BUFFER -/

/-- A buffer may be posted to a context that is READY or active (R143). -/
theorem CtxState.notPostable_iff (st : CtxState) :
    (st ≠ .ready ∧ !st.active) ↔ st ∉ [.ready, .armed, .running, .stopping] := by
  cases st <;> decide

/-- A buffer joins the queue and leaves the context's sequence as it is, so the frame size too (R144). -/
theorem Taken.exec_postBuffer {s : State} {src : RingId} {c : CtxId} {length tag : Word} {address : Addr}
    {p : PendingEntry} (h : Taken s src (.postBuffer c length tag address) p) :
    exec (.postBuffer src c length tag address) s = .next (match (s.takeDispatched src).postFault c length with
      | some a => (s.takeDispatched src).handIn [.command p.age a]
      | none =>
        ((s.takeDispatched src).setCtx c ((s.ctx c).joinQueue (.posted address length tag src))).handIn
          [.command p.age (answer .ok (word ((s.ctx c).cap.queue.length + 1))
            (word (length.toNat / (s.ctx c).frameSize)) 0)]) := by
  refine congrArg Host.Outcome.next ((h.ownerTakes _).trans ?_)
  have hlength : ((s.ctx c).joinQueue (.posted address length tag src)).cap.queue.length =
      (s.ctx c).cap.queue.length + 1 := List.length_append
  simp only [State.ctx_modCtx_self, State.ctx_takeDispatched, hlength]
  rfl

/-- Settles O46: the checks of R143 stand in the order of the statement; past them the buffer is the last of the
queue. -/
theorem postBufferByItsChecks : Obligations.PostBufferByItsChecks := by
  intro s src c length tag address p h u x size refused
  have hfault : u.postFault c length = refused := by
    simp only [State.postFault, CtxState.notPostable_iff]
    rfl
  have hexec := h.exec_postBuffer
  rw [show (s.takeDispatched src).postFault c length = refused from hfault] at hexec
  refine ⟨fun a ha => ?_, fun hnone => ?_⟩
  · rw [ha] at hexec
    exact h.completes hexec rfl rfl rfl rfl
  · rw [hnone] at hexec
    exact h.completes hexec rfl rfl rfl rfl

/-! ### Entry into FAILED by a staging error -/

/-- A completion record on the link is being sent while the bus is busy with it; nothing else on the link is one. -/
theorem Bus.sendingRecord_eq (b : Bus) :
    b.sendingRecord =
      match b.onLink with
      | some (.record _ _) => b.busy
      | some (.message _ _) | some (.read _) | some (.frame _ _) | some (.report _) | none => false := by
  unfold Bus.sendingRecord
  cases b.onLink with
  | none => exact Bool.and_false _
  | some transfer =>
    cases transfer with
    | record => exact Bool.and_true _
    | message | read | frame | report => exact Bool.and_false _

/-- Everything a staging error does to the Host Link (R184, R194, log 19). -/
theorem HostLink.failByStaging_eq (h : HostLink) : h.failByStaging = { h with
    device := .failed
    regs := { h.regs with intCause := if h.regs.intEnable then .failed else h.regs.intCause }
    bus := { h.bus with
      class1 := if h.regs.intEnable && h.endpoint.messages then [.message .failed] else []
      busy := h.bus.sendingRecord } } := by
  unfold HostLink.failByStaging HostLink.failedMessage
  cases henable : h.regs.intEnable with
  | false =>
    simp only [henable, Bool.false_and, Bool.false_eq_true, if_false]
    rw [← henable]
  | true =>
    unfold HostLink.queueMessage
    cases h.endpoint.messages <;> simp [henable]

/-! ### FRAME_WRITE_BEGIN -/

section

variable {s : State} {c : CtxId} {f : Frame} {rest : List Frame} {b : Buffer} {behind : List Buffer}

/-- A COMPLETE frame is the oldest and no write is in flight: FRAME_WRITE_BEGIN looks for its buffer (R145). -/
theorem exec_frameWriteBegin (hd : s.link.device = .online)
    (hst : (s.ctx c).state = .running ∨ (s.ctx c).state = .stopping) (hw : (s.ctx c).cap.writing = false)
    (hf : (s.ctx c).cap.store = f :: rest) (hcomplete : f.cond = .complete) (staging : Bool) :
    exec (.frameWriteBegin c staging) s = .next (s.writeOldest c staging) := by
  have hready : (s.ctx c).frameReady = some f := by simp [Ctx.frameReady, hst, hw, hf, hcomplete]
  exact congrArg Host.Outcome.next (if_pos ⟨hd, by rw [hready]; rfl⟩)

theorem State.writeOldest_noBuffer (hq : (s.ctx c).cap.queue = []) (staging : Bool) :
    s.writeOldest c staging = s.settleCtx c := by
  simp only [State.writeOldest, hq]

theorem State.writeOldest_due (hq : (s.ctx c).cap.queue = b :: behind) (ho : b.opened = true) (hdue : b.due ≠ none)
    (staging : Bool) : s.writeOldest c staging = s := by
  simp only [State.writeOldest, hq, ho, if_true]
  exact if_pos (Option.isSome_iff_ne_none.2 hdue)

/-- An open buffer too short for the frame retires FILLED (R146). -/
theorem State.writeOldest_short (hq : (s.ctx c).cap.queue = b :: behind) (ho : b.opened = true) (hdue : b.due = none)
    (hshort : b.length - b.used < (s.ctx c).frameSize) (staging : Bool) :
    s.writeOldest c staging = (s.modCtx c (·.headDue .filled)).settleCtx c := by
  simp only [State.writeOldest, hq, ho, hdue, if_true]
  exact if_pos hshort

/-- A buffer beyond the fault limit is not opened (R155). -/
theorem State.writeOldest_limit (hq : (s.ctx c).cap.queue = b :: behind) (ho : b.opened = false)
    (hlimit : (s.ctx c).cap.faultLimit = some 0) (staging : Bool) : s.writeOldest c staging = s.settleCtx c := by
  simp only [State.writeOldest, hq, ho, hlimit, Bool.false_eq_true, if_false, if_true]

/-- The head takes the frame: it is open with room for it, or closed and within the fault limit (R145, R155). -/
theorem State.writeOldest_takes (hq : (s.ctx c).cap.queue = b :: behind)
    (ht : (b.opened = true ∧ b.due = none ∧ (s.ctx c).frameSize ≤ b.length - b.used) ∨
      (b.opened = false ∧ (s.ctx c).cap.faultLimit ≠ some 0)) (staging : Bool) :
    s.writeOldest c staging = s.sendFrame c b staging := by
  rcases ht with ⟨ho, hdue, hroom⟩ | ⟨ho, hlimit⟩
  · simp only [State.writeOldest, hq, ho, hdue, if_true]
    exact if_neg (Nat.not_lt.2 hroom)
  · simp only [State.writeOldest, hq, ho, Bool.false_eq_true, if_false]
    exact if_neg hlimit

/-- The frame's write is asked for in class 3 (R145). -/
theorem State.sendFrame_false (hq : (s.ctx c).cap.queue = b :: behind) (hf : (s.ctx c).cap.store = f :: rest) :
    s.sendFrame c b false = (s.setCtx c ((s.ctx c).beginWrite f rest b behind)).modBus fun u =>
      { u with class3 := u.class3.set c.val (some ((s.ctx c).frameWrite f b)) } := by
  simp only [State.sendFrame, hq, hf]
  rfl

theorem State.sendFrame_true : s.sendFrame c b true = { s with link := s.link.failByStaging } := rfl

end

/-- Settles O47: the branches of `writeOldest` are the cases of the head buffer. -/
theorem frameWriteBeginTakesTheOldestFrame : Obligations.FrameWriteBeginTakesTheOldestFrame := by
  intro s c f rest x size hd hst hw hf hcomplete
  have hexec (staging : Bool) := exec_frameWriteBegin hd hst hw hf hcomplete staging
  simp only [hexec]
  refine ⟨fun hq staging => by rw [State.writeOldest_noBuffer hq], fun b behind hq => ?_⟩
  refine ⟨fun ht => ?_, fun ht => ?_, fun ho hdue hshort staging => ?_, fun ho hdue staging => ?_,
    fun ho hlimit staging => ?_⟩
  · rw [State.writeOldest_takes hq ht, State.sendFrame_false hq hf]
    rfl
  · have hlink := s.link.failByStaging_eq
    rw [Bus.sendingRecord_eq] at hlink
    rw [State.writeOldest_takes hq ht, State.sendFrame_true]
    exact congrArg (fun link => Host.Outcome.next { s with link := link }) hlink
  · rw [State.writeOldest_short hq ho hdue hshort, State.modCtx, Ctx.headDue_cons hq]
  · rw [State.writeOldest_due hq ho hdue]
  · rw [State.writeOldest_limit hq ho hlimit]

/-! ### FRAME_WRITE_END -/

/-- A frame's delivery as the run counts it (R147). -/
def Run.counted (r : Run) (f : Frame) : Run :=
  { r with
    delivered := r.delivered + 1
    historyDelivered := if f.history then r.historyDelivered + 1 else r.historyDelivered }

/-- The model adds one for a history frame and nothing for another. -/
theorem Run.counted_eq (r : Run) (f : Frame) :
    { r with
      delivered := r.delivered + 1
      historyDelivered := r.historyDelivered + if f.history then 1 else 0 } = r.counted f := by
  have hcount : (r.historyDelivered + if f.history then 1 else 0) =
      if f.history then r.historyDelivered + 1 else r.historyDelivered := by
    cases f.history with
    | false => exact BitVec.add_zero _
    | true => rfl
  rw [hcount]
  rfl

section

variable {x : Ctx} {f : Frame} {rest : List Frame} (hf : x.cap.store = f :: rest) (now : Time)
include hf

/-- The frame went into the open buffer (R147, R152). -/
theorem Ctx.endWrite_open {b : Buffer} {behind : List Buffer} (hq : x.cap.queue = b :: behind)
    (ho : b.opened = true) :
    x.endWrite now = { x with
      run := x.run.counted f
      cap := { x.cap with
        store := rest
        queue := b.took x.frameSize :: behind
        writing := false
        flushDeadline := if b.due = none then msDeadline now x.definition.flush else x.cap.flushDeadline } } := by
  simp only [Ctx.endWrite, hf, hq, ho, Run.counted_eq, if_true]

/-- The frame went into a buffer that an ABORT has moved to the return list (R156). -/
theorem Ctx.endWrite_returned (hq : ∀ b behind, x.cap.queue = b :: behind → b.opened = false) :
    x.endWrite now = { x with
      run := x.run.counted f
      cap := { x.cap with
        store := rest
        returns := x.cap.returns.map (ReturnItem.took x.frameSize)
        writing := false } } := by
  cases hqueue : x.cap.queue with
  | nil => simp only [Ctx.endWrite, hf, hqueue, Run.counted_eq]
  | cons b behind =>
    simp only [Ctx.endWrite, hf, hqueue, hq b behind hqueue, Run.counted_eq, Bool.false_eq_true, if_false]

end

/-- The end of a context's frame write on the link (R147). -/
theorem exec_frameWriteEnd {s : State} {c : CtxId} {w : FrameWrite} (hd : s.link.device = .online)
    (hbusy : s.link.bus.busy = true) (hl : s.link.bus.onLink = some (.frame c w))
    (hw : (s.ctx c).cap.writing = true) {x : Ctx} (hx : (s.ctx c).endWrite s.timeBase = x) :
    exec .frameWriteEnd s = .next (({ s.setCtx c x with
      link := { s.link with bus := { s.link.bus with busy := false } } }).settleCtx c) := by
  have hnext : exec .frameWriteEnd s =
      .next (((s.modBus fun b => { b with busy := false }).modCtx c (·.endWrite s.timeBase)).settleCtx c) := by
    simp only [exec, execFrameWriteEnd, hd, hbusy, hl, hw, if_true]
  rw [hnext, ← hx]
  rfl

/-! ### The flush of a context -/

/-- The frames that wait are released and counted dropped, and the fault limit is then `limit` (R155). -/
def Ctx.framesDropped (x : Ctx) (limit : Option Nat) : Ctx :=
  { x with
    run := { x.run with dropped := x.run.dropped + word x.cap.store.length }
    cap := { x.cap with store := [], faultLimit := limit } }

section

variable {x : Ctx}

theorem ReturnItem.isBuffer_iff (it : ReturnItem) : it.isBuffer = true ↔ ∃ b, it = .buffer b := by
  cases it <;> simp [ReturnItem.isBuffer]

/-- When the flush is done (R154, R155). -/
theorem Ctx.flushDone_iff (x : Ctx) :
    x.flushDone = true ↔ x.cap.store = [] ∧
      (∀ b behind, x.cap.queue = b :: behind → b.opened = false ∧ b.due = none) ∧
      ¬∃ b, .buffer b ∈ x.cap.returns := by
  have hhead : (x.cap.queue.head?.all fun b => !b.opened && b.due.isNone) = true ↔
      ∀ b behind, x.cap.queue = b :: behind → b.opened = false ∧ b.due = none := by
    cases x.cap.queue <;> simp
  have hreturns : (!x.cap.returns.any ReturnItem.isBuffer) = true ↔ ¬∃ b, .buffer b ∈ x.cap.returns := by
    simp only [Bool.not_eq_true', ← Bool.not_eq_true, List.any_eq_true, ReturnItem.isBuffer_iff]
    exact not_congr ⟨fun ⟨_, hmem, b, hb⟩ => ⟨b, hb ▸ hmem⟩, fun ⟨b, hmem⟩ => ⟨_, hmem, b, rfl⟩⟩
  simp only [Ctx.flushDone, Bool.and_eq_true, List.isEmpty_iff, hhead, hreturns, and_assoc]

theorem Ctx.clearLimit_done (h : x.flushDone = true) :
    x.clearLimit = { x with cap := { x.cap with faultLimit := none } } := if_pos h

theorem Ctx.clearLimit_notDone (h : ¬x.flushDone = true) : x.clearLimit = x := if_neg h

/-- Frames are given up only in a fault end with no buffer left within the limit (R155). -/
theorem Ctx.giveUpFrames_kept (h : x.cap.store = [] ∨ x.cap.faultLimit ≠ some 0) : x.giveUpFrames = x :=
  if_neg fun ⟨hlimit, hstore⟩ => h.elim hstore fun hne => hne hlimit

theorem Ctx.giveUpFrames_limit (hf : x.cap.store ≠ []) (hlimit : x.cap.faultLimit = some 0) :
    x.giveUpFrames = x.framesDropped (some 0) := by
  rw [Ctx.framesDropped, ← hlimit]
  exact if_pos ⟨hlimit, hf⟩

/-- The open buffer is due once no frame is left (R154). -/
theorem Ctx.openPartial_open {b : Buffer} {behind : List Buffer} (hf : x.cap.store = [])
    (hq : x.cap.queue = b :: behind) (ho : b.opened = true) (hdue : b.due = none) :
    x.openPartial = { x with cap := { x.cap with
      queue := { b with due := some .partial' } :: behind, flushDeadline := none } } := by
  simp only [Ctx.openPartial, hf, hq]
  exact if_pos ⟨ho, hdue⟩

/-- While frames are left no buffer becomes due by the flush (R154). -/
theorem Ctx.openPartial_frames (hf : x.cap.store ≠ []) : x.openPartial = x := by
  unfold Ctx.openPartial
  split
  · next hnil _ => exact absurd hnil hf
  · rfl

/-- No flush moves on outside STOPPING, nor while a frame is written. -/
theorem Ctx.settled_still (h : x.state ≠ .stopping ∨ x.cap.writing = true) : x.settled = x := by
  refine if_neg fun ⟨hst, hw⟩ => h.elim (fun hne => hne hst) fun hwriting => ?_
  simp [hwriting] at hw

variable (hst : x.state = .stopping) (hw : x.cap.writing = false)
include hst hw

/-- In STOPPING, with no write in flight, a flush moves on: frames given up, open buffer, fault limit (R154, R155). -/
theorem Ctx.settled_flushing : x.settled = x.giveUpFrames.openPartial.clearLimit :=
  if_pos ⟨hst, by simp [hw]⟩

/-- A flush that gives up no frame and retires no buffer settles the fault limit alone. -/
theorem Ctx.settled_limit (hgive : x.giveUpFrames = x) (hopen : x.openPartial = x) : x.settled = x.clearLimit := by
  rw [Ctx.settled_flushing hst hw, hgive, hopen]

/-- The open buffer retires PARTIAL, and is due until its completion has joined (R154). -/
theorem Ctx.settled_open {b : Buffer} {behind : List Buffer} (hf : x.cap.store = [])
    (hq : x.cap.queue = b :: behind) (ho : b.opened = true) (hdue : b.due = none) :
    x.settled = { x with cap := { x.cap with
      queue := { b with due := some .partial' } :: behind, flushDeadline := none } } := by
  rw [Ctx.settled_flushing hst hw, Ctx.giveUpFrames_kept (.inl hf), Ctx.openPartial_open hf hq ho hdue]
  refine Ctx.clearLimit_notDone fun hdone => ?_
  obtain ⟨_, hclosed, _⟩ := (Ctx.flushDone_iff _).1 hdone
  exact absurd (hclosed _ _ rfl).2 (by simp)

/-- While the buffer at the head is due the flush waits for its completion (R155). -/
theorem Ctx.settled_due {b : Buffer} {behind : List Buffer} (hf : x.cap.store = [])
    (hq : x.cap.queue = b :: behind) (hdue : b.due ≠ none) : x.settled = x := by
  have hopen : x.openPartial = x := Ctx.openPartial_closed fun b' behind' hq' => by
    obtain ⟨rfl, rfl⟩ := List.cons.inj (hq.symm.trans hq')
    exact .inr hdue
  rw [Ctx.settled_limit hst hw (Ctx.giveUpFrames_kept (.inl hf)) hopen]
  refine Ctx.clearLimit_notDone fun hdone => ?_
  obtain ⟨_, hclosed, _⟩ := (Ctx.flushDone_iff x).1 hdone
  exact hdue (hclosed b behind hq).2

/-- Frames that wait while a buffer is left within the fault limit go on waiting (R154). -/
theorem Ctx.settled_frames (hf : x.cap.store ≠ []) (hlimit : x.cap.faultLimit ≠ some 0) : x.settled = x := by
  rw [Ctx.settled_limit hst hw (Ctx.giveUpFrames_kept (.inr hlimit)) (Ctx.openPartial_frames hf)]
  exact Ctx.clearLimit_notDone fun hdone => hf ((Ctx.flushDone_iff _).1 hdone).1

/-- Frames that no buffer within the fault limit can take are dropped, and the limit is settled (R155). -/
theorem Ctx.settled_dropped (hf : x.cap.store ≠ []) (hlimit : x.cap.faultLimit = some 0)
    (hclosed : ∀ b behind, x.cap.queue = b :: behind → b.opened = false) :
    x.settled = (x.framesDropped (some 0)).clearLimit := by
  rw [Ctx.settled_flushing hst hw, Ctx.giveUpFrames_limit hf hlimit,
    Ctx.openPartial_closed (x := x.framesDropped (some 0)) fun b behind hq => .inl (hclosed b behind hq)]

end

/-- Settles O48: the end of the write by the buffer that took the frame, and the flush by what is left of the
context. -/
theorem frameWriteEndDeliversAndFlushes : Obligations.FrameWriteEndDeliversAndFlushes := by
  constructor
  · intro s c w f rest hd hbusy hl x hw hf size run ends
    exact ⟨fun b behind hq ho => exec_frameWriteEnd hd hbusy hl hw (Ctx.endWrite_open hf _ hq ho),
      fun hq => exec_frameWriteEnd hd hbusy hl hw (Ctx.endWrite_returned hf _ hq)⟩
  · intro x headClosed returning
    have notDone {y : Ctx} (hret : ∃ b, .buffer b ∈ y.cap.returns) : y.clearLimit = y :=
      Ctx.clearLimit_notDone fun hdone => ((Ctx.flushDone_iff y).1 hdone).2.2 hret
    have hopen (hclosed : headClosed) : x.openPartial = x :=
      Ctx.openPartial_closed fun b behind hq => .inl (hclosed b behind hq).1
    refine ⟨Ctx.settled_still, fun hst hw => ⟨fun b behind hf hq ho hdue => Ctx.settled_open hst hw hf hq ho hdue,
      fun hf hlimit hclosed => ?_, Ctx.settled_frames hst hw, fun hf hclosed hret => ?_,
      fun hf hclosed hret => ?_, fun hf ⟨b, behind, hq, hdue⟩ => ?_⟩⟩
    · have hdropped := Ctx.settled_dropped hst hw hf hlimit fun b behind hq => (hclosed b behind hq).1
      exact ⟨fun hret => hdropped.trans (notDone hret),
        fun hret => hdropped.trans (Ctx.clearLimit_done ((Ctx.flushDone_iff _).2 ⟨rfl, hclosed, hret⟩))⟩
    · rw [Ctx.settled_limit hst hw (Ctx.giveUpFrames_kept (.inl hf)) (hopen hclosed),
        Ctx.clearLimit_done ((Ctx.flushDone_iff x).2 ⟨hf, hclosed, hret⟩)]
    · rw [Ctx.settled_limit hst hw (Ctx.giveUpFrames_kept (.inl hf)) (hopen hclosed), notDone hret]
    · exact Ctx.settled_due hst hw hf hq hdue

end Sys2Proof.Machine
end

section
/-!
PROOFS. The Line Unit and the Output Unit: the level of a line, SET_LINES, SET_COUNTER and SET_OUTPUT.
-/

namespace Sys2Proof.Machine

open Sys2Proof

-- One thread at a time: each thread of a parallel proof reserves 1 GiB of the check's memory limit.
set_option Elab.async false

/-! ### The level of a line -/

theorem State.lineSnapshot_getLsbD (s : State) (l : LineId) : s.lineSnapshot.getLsbD l.val = s.lineLevel l := by
  rw [State.lineSnapshot, BitVec.getLsbD_ofFnLE, dif_pos l.isLt]

section

variable {s : State} {l : LineId} {c : CtxId}

theorem State.lineLevel_input (h : (s.line l).mode = .input) : s.lineLevel l = (s.line l).seen := by
  simp only [State.lineLevel, h]

theorem State.lineLevel_output {level : Bool} (h : (s.line l).mode = .output level) : s.lineLevel l = level := by
  simp only [State.lineLevel, h]

theorem State.lineLevel_runActive (h : (s.line l).mode = .event c .runActive) :
    s.lineLevel l = true ↔ (s.ctx c).state = .running ∨ (s.ctx c).state = .stopping := by
  simp only [State.lineLevel, h, Bool.or_eq_true, beq_iff_eq]

/-- The lines of the two momentary events are high while they pulse (R163, R169). -/
theorem State.lineLevel_pulse (h : (s.line l).mode = .event c .scanStart ∨ (s.line l).mode = .event c .bufferRetired) :
    s.lineLevel l = true ↔ ∃ t, (s.line l).pulseEnd = some t := by
  rcases h with h | h <;> simp only [State.lineLevel, h, Option.isSome_iff_exists]

end

/-! ### SET_LINES -/

/-- A search through all of `Fin n` in order stops at the first that gives something. -/
theorem findSome?_finRange_eq_some {α : Type} {n : Nat} {f : Fin n → Option α} {i : Fin n} {a : α}
    (hi : f i = some a) (hbefore : ∀ j < i, f j = none) : (List.finRange n).findSome? f = some a := by
  refine List.findSome?_eq_some_iff.2 ⟨(List.finRange n).take i, i, (List.finRange n).drop (i + 1), ?_, hi, ?_⟩
  · have := List.take_append_drop i.val (List.finRange n)
    rw [List.drop_eq_getElem_cons (by simp)] at this
    simpa using this.symm
  · intro j hj
    obtain ⟨k, hk, rfl⟩ := List.mem_take_iff_getElem.1 hj
    exact hbefore _ (by simpa [Fin.lt_def] using (Nat.lt_min.1 hk).1)

/-- The two bytes of a line setting as numbers (R197). -/
theorem setting_bytes (v : Half) :
    (v.setWidth 8).toNat = v.toNat % 256 ∧ (v.extractLsb' 8 8).toNat = v.toNat / 256 := by
  refine ⟨BitVec.toNat_setWidth 8 v, ?_⟩
  rw [BitVec.extractLsb'_toNat, Nat.shiftRight_eq_div_pow]
  exact Nat.mod_eq_of_lt (by have := v.isLt; omega)

/-- The settings of R197 by their two bytes: a line is an input, an output with its level, or follows an event. -/
theorem lineModeOf_eq {v : Half} {mode second : Nat} (hmode : v.toNat % 256 = mode) (hsecond : v.toNat / 256 = second) :
    lineModeOf v =
      if mode = 1 ∧ second = 0 then some .input
      else if mode = 2 ∧ second = 0 then some (.output false)
      else if mode = 2 ∧ second = 1 then some (.output true)
      else if mode = 3 ∧ second % 16 < 8 ∧ second / 16 = 1 then some (.event (Fin.ofNat 8 (second % 16)) .runActive)
      else if mode = 3 ∧ second % 16 < 8 ∧ second / 16 = 2 then some (.event (Fin.ofNat 8 (second % 16)) .scanStart)
      else if mode = 3 ∧ second % 16 < 8 ∧ second / 16 = 3 then some (.event (Fin.ofNat 8 (second % 16)) .bufferRetired)
      else none := by
  obtain ⟨hlow, hhigh⟩ := setting_bytes v
  simp only [lineModeOf, BitVec.toNat_eq, hlow, hhigh, hmode, hsecond]
  by_cases h1 : mode = 1
  · simp [h1]
  by_cases h2 : mode = 2
  · simp [h2]
  by_cases h3 : mode = 3
  · by_cases hsource : second % 16 < 8
    · simp [h3, hsource, Nat.not_le.2 hsource]
    · simp [h3, hsource, Nat.not_lt.1 hsource]
  · simp [h1, h2, h3]

section

variable {s : State} {flags : Half} {settings : List Half}

/-- What R165 checks of one line, and with which status. -/
theorem State.lineFault_iff (l : LineId) (st : Status) :
    s.lineFault flags settings l = some st ↔
      (flagged flags l = false ∧ settingOf settings l ≠ 0 ∧ st = .badParam) ∨
      (flagged flags l = true ∧ lineModeOf (settingOf settings l) = none ∧ st = .badParam) ∨
      (flagged flags l = true ∧ st = .lineInUse ∧ s.lineInUse l = true ∧
        ∃ m, lineModeOf (settingOf settings l) = some m ∧ m ≠ .input) := by
  unfold State.lineFault
  cases flagged flags l with
  | false => simp [eq_comm (a := st)]
  | true =>
    cases lineModeOf (settingOf settings l) with
    | none => simp [eq_comm (a := st)]
    | some m => simp [eq_comm (a := st), and_comm]

/-- No line fails a check. -/
theorem State.firstBadLine_none (h : ∀ l, s.lineFault flags settings l = none) :
    s.firstBadLine flags settings = none :=
  List.findSome?_eq_none_iff.2 fun l _ => by rw [h, Option.map_none]

/-- The first line that fails a check decides (R165). -/
theorem State.firstBadLine_some {l : LineId} {st : Status} (h : s.lineFault flags settings l = some st)
    (hbefore : ∀ l' < l, s.lineFault flags settings l' = none) : s.firstBadLine flags settings = some (l, st) :=
  findSome?_finRange_eq_some (by rw [h, Option.map_some]) fun l' hl' => by rw [hbefore l' hl', Option.map_none]

/-- What SET_LINES does once it is taken. -/
theorem Taken.exec_setLines {p : PendingEntry} (h : Taken s 0 (.setLines flags settings) p) :
    exec (.setLines flags settings) s = .next (match s.firstBadLine flags settings with
      | some (l, st) => (s.takeDispatched 0).complete p.age st (word l.val) 0 0
      | none => ((s.takeDispatched 0).setLines flags settings).complete p.age .ok
          (((s.takeDispatched 0).setLines flags settings).lineSnapshot.setWidth 32)
          (word (s.linesChanged flags settings)) 0) :=
  congrArg Host.Outcome.next (h.ownerTakes _)

end

/-- Settles O53: the level by the line's mode; SET_LINES by the first line that fails, its settings read as
`lineModeOf` reads them. -/
theorem setLinesByItsChecks : Obligations.SetLinesByItsChecks := by
  refine ⟨fun s l => ⟨State.lineLevel_input, fun _ => State.lineLevel_output, fun _ => State.lineLevel_runActive,
    fun _ => State.lineLevel_pulse, s.lineSnapshot_getLsbD l⟩, ?_⟩
  intro s flags settings p h u setting modeOf fails after changed w
  have hmode : modeOf = lineModeOf := funext fun _ => (lineModeOf_eq rfl rfl).symm
  have hfails (l : LineId) (st : Status) : fails l st ↔ s.lineFault flags settings l = some st := by
    rw [State.lineFault_iff, ← hmode]
    rfl
  have hexec := h.exec_setLines
  refine ⟨fun l st hfail hbefore => ?_, fun hnone => ?_⟩
  · rw [State.firstBadLine_some ((hfails l st).1 hfail) fun l' hl' =>
      Option.eq_none_iff_forall_ne_some.2 fun st' => mt (hfails l' st').2 (hbefore l' hl' st')] at hexec
    exact h.completes hexec rfl rfl rfl rfl
  · rw [State.firstBadLine_none fun l =>
      Option.eq_none_iff_forall_ne_some.2 fun st' => mt (hfails l st').2 (hnone l st')] at hexec
    have hafter (l : LineId) : s.lineSet flags settings l = after l := by
      simp only [after, hmode]
      rfl
    have hw : (s.takeDispatched 0).setLines flags settings = w :=
      congrArg (fun f => { u with lines := { s.lines with lines := Vector.ofFn f } }) (funext hafter)
    have hchanged : s.linesChanged flags settings = changed.length := by
      simp only [State.linesChanged, hafter]
      rfl
    simp only [hw, hchanged] at hexec
    exact h.completes hexec rfl rfl rfl rfl

/-! ### SET_COUNTER -/

/-- The checks of R171 on the source, by whether there is one. -/
theorem State.counterFault_eq (s : State) (counter source edge : Byte) :
    s.counterFault counter source edge =
      if counter ≠ 0 ∧ counter ≠ 1 then some .badParam
      else if source ≠ 255 ∧ 15 < source.toNat then some .badParam
      else if source ≠ 255 ∧ edge ≠ 1 ∧ edge ≠ 2 then some .badParam
      else if source = 255 ∧ edge ≠ 0 then some .badParam
      else if source ≠ 255 ∧ (s.line (Fin.ofNat 16 source.toNat)).mode ≠ .input then some .lineMode
      else none := by
  have hline : (!isLine source) = true ↔ 15 < source.toNat := by simp [isLine]; omega
  have hedge : (!isEdge edge) = true ↔ edge ≠ 1 ∧ edge ≠ 2 := by simp [isEdge]
  simp only [State.counterFault, one_lt_toNat_iff, noSource, hline, hedge]
  by_cases hsource : source = 255
  · simp [hsource]
  · simp only [hsource, ne_eq, not_false_eq_true, true_and, false_and, if_false, lineOf]
    congr

/-- A counter or an output named by a byte that is 0 or 1. -/
theorem ofNat_two_toNat {b : Byte} (h : ¬(b ≠ 0 ∧ b ≠ 1)) : Fin.ofNat 2 b.toNat = if b = 0 then 0 else 1 := by
  obtain rfl | rfl : b = 0 ∨ b = 1 := by tauto
  · rfl
  · rfl

/-- Settles O54: the checks of R171 in the statement's order; past them the counter byte names the counter. -/
theorem setCounterByItsChecks : Obligations.SetCounterByItsChecks := by
  intro s counter source edge p h u st k old new
  have hfault : u.counterFault counter source edge = if st = .ok then none else some st := by
    rw [State.counterFault_eq]
    simp only [st]
    split_ifs <;> trivial
  have hexec : exec (.setCounter counter source edge) s = .next (match u.counterFault counter source edge with
      | some st => u.complete p.age st 0 0 0
      | none =>
        let k : Fin 2 := Fin.ofNat 2 counter.toNat
        (u.setCounter k ⟨counterSource source edge, 0⟩).complete p.age .ok (s.counter k).count
          (s.counter k).sourceWord 0) := congrArg Host.Outcome.next (h.ownerTakes _)
  rw [hfault] at hexec
  refine ⟨fun hbad => ?_, fun hok => ?_⟩
  · rw [if_neg hbad] at hexec
    exact h.completes hexec rfl rfl rfl rfl
  · have hcounter : ¬(counter ≠ 0 ∧ counter ≠ 1) := fun hc =>
      absurd ((show st = .badParam from if_pos hc).symm.trans hok) nofun
    rw [if_pos hok] at hexec
    simp only [ofNat_two_toNat hcounter] at hexec
    exact h.completes hexec rfl rfl rfl rfl

/-! ### SET_OUTPUT -/

/-- Settles O55: the checks of R174 stand in the order of the statement; past them R175 acts by the time kind. -/
theorem setOutputByItsChecks : Obligations.SetOutputByItsChecks := by
  intro s src c output kind code p h u st n old superseded set
  have hfault : u.outputFault c output kind = if st = .ok then none else some st := by
    simp only [State.outputFault, one_lt_toNat_iff, two_lt_toNat_iff, st]
    split_ifs <;> trivial
  have hexec : exec (.setOutput src c output kind code) s = .next (match u.outputFault c output kind with
      | some st => u.complete p.age st 0 0 0
      | none => u.setOutput p.age c (Fin.ofNat 2 output.toNat) kind code) :=
    congrArg Host.Outcome.next (h.ownerTakes _)
  rw [hfault] at hexec
  have haccepted (hok : st = .ok) :
      exec (.setOutput src c output kind code) s = .next (u.setOutput p.age c n kind code) := by
    have houtput : ¬(output ≠ 0 ∧ output ≠ 1) := fun ho =>
      absurd ((show st = .badParam from if_pos ho).symm.trans hok) nofun
    rwa [if_pos hok, ofNat_two_toNat houtput] at hexec
  refine ⟨fun hbad => ?_, fun hok hnow => ?_, fun hok hheld => ?_⟩
  · rw [if_neg hbad] at hexec
    exact h.completes hexec rfl rfl rfl rfl
  · exact (haccepted hok).trans (congrArg _ (if_pos hnow))
  · exact (haccepted hok).trans (congrArg _ (if_neg hheld))

end Sys2Proof.Machine
end

section
/-!
PROOFS. The Host Link's registers stay within their bounds: what each command leaves of them.
-/

namespace Sys2Proof.Machine

open Sys2Proof

-- One thread at a time: each thread of a parallel proof reserves 1 GiB of the check's memory limit.
set_option Elab.async false

/-! ### What the bounds of the registers look at -/

/-- The part of the Host Link that the bounds of the registers look at: the unsignalled count, the coalescing count,
CONFIG_ERROR and CHECK. -/
def HostLink.bounded (h : HostLink) : Nat × BitVec 7 × Bool × Nat :=
  (h.unsignalled, h.regs.intCount, h.regs.configError, h.regs.check)

theorem RegisterBounds.congr {s t : State} (b : RegisterBounds s) (h : t.link.bounded = s.link.bounded) :
    RegisterBounds t := by
  simp only [HostLink.bounded, Prod.mk.injEq] at h
  obtain ⟨hunsignalled, hcount, herror, hcheck⟩ := h
  exact ⟨by rw [hunsignalled]; exact b.unsignalled, by rw [hcount]; exact b.count,
    by rw [herror, hcheck]; exact b.check, by rw [hcheck]; exact b.checkRange⟩

/-- From `s` to `t` the registers stay legal. -/
structure KeepsRegisters (s t : State) : Prop where
  bounds : RegisterBounds s → RegisterBounds t

theorem KeepsRegisters.trans {s t u : State} (h : KeepsRegisters s t) (g : KeepsRegisters t u) : KeepsRegisters s u :=
  ⟨fun b => g.bounds (h.bounds b)⟩

/-- An update that leaves alone what the bounds look at. -/
theorem KeepsRegisters.of_same {s t : State} (h : t.link.bounded = s.link.bounded) : KeepsRegisters s t :=
  ⟨fun b => b.congr h⟩

theorem KeepsRegisters.refl (s : State) : KeepsRegisters s s := .of_same rfl

/-- What keeps the registers legal, after an update that leaves them alone. -/
theorem KeepsRegisters.after_same {s t u : State} (g : KeepsRegisters t u) (h : t.link.bounded = s.link.bounded) :
    KeepsRegisters s u := .trans (.of_same h) g

/-- What is calm keeps the Host Link. -/
theorem Calm.keepsRegisters {s t : State} (h : Calm s t) : KeepsRegisters s t :=
  .of_same (congrArg HostLink.bounded h.link)

/-- An update that leaves the registers alone, and then something calm. -/
theorem Calm.keepsRegisters_after {s t u : State} (h : Calm t u) (hl : t.link.bounded = s.link.bounded) :
    KeepsRegisters s u := h.keepsRegisters.after_same hl

/-- A hand-in keeps what has been kept before it. -/
theorem KeepsRegisters.handIn {s t : State} (h : KeepsRegisters s t) (claims : List Claim) :
    KeepsRegisters s (t.handIn claims) := h.trans (Calm.handIn t claims).keepsRegisters

/-- After a reset of the Host Link the registers are legal. -/
theorem KeepsRegisters.of_reset {s t : State} (h : t.link.bounded = HostLink.reset.bounded) : KeepsRegisters s t :=
  have ⟨_, hreset, _⟩ := powerOnMeetsTheBounds
  ⟨fun _ => hreset.congr h⟩

theorem KeepsRegisters.ownerTakes {s : State} {r : RingId} {cmd : Command} {act : Nat → State → State}
    (h : ∀ e t, KeepsRegisters t (act e t)) : KeepsRegisters s (s.ownerTakes r cmd act) := by
  unfold State.ownerTakes
  split
  · split
    · exact (h _ _).after_same rfl
    · exact .refl s
  · exact .refl s

theorem KeepsRegisters.hostAccess {s : State} {f : State → State} (h : KeepsRegisters s (f s)) :
    KeepsRegisters s (s.hostAccess f) := by
  unfold State.hostAccess
  split
  · exact h
  · exact .refl s

/-! ### The registers that change -/

/-- A message empties the coalescing state (R192). -/
theorem KeepsRegisters.messageOf (s : State) (cause : IntCause) :
    KeepsRegisters s { s with link := messageOf s.link cause } :=
  ⟨fun b => ⟨Nat.zero_le _, b.count, b.check, b.checkRange⟩⟩

theorem KeepsRegisters.retest (s : State) (now : Time) : KeepsRegisters s { s with link := s.link.retest now } := by
  rw [HostLink.retest_eq]
  split
  · split
    · exact .messageOf s _
    · split
      · exact .messageOf s _
      · exact .refl s
  · exact .refl s

/-- A record sent counts up to 64 at the most (R191). -/
theorem KeepsRegisters.recordSent (s : State) (now : Time) :
    KeepsRegisters s { s with link := s.link.recordSent now } :=
  ⟨fun b => ⟨Nat.min_le_left _ _, b.count, b.check, b.checkRange⟩⟩

theorem KeepsRegisters.testAfterSend (s : State) (now : Time) (first : Bool) :
    KeepsRegisters s { s with link := s.link.testAfterSend now first } := by
  rw [HostLink.testAfterSend_eq]
  split
  · exact .messageOf s _
  · exact .refl s

theorem KeepsRegisters.writeIntEnable (s : State) (v : Bool) : KeepsRegisters s (s.writeIntEnable v) := by
  have hset : KeepsRegisters s { s with link := s.link.setIntEnable v } := .of_same rfl
  unfold State.writeIntEnable
  dsimp only
  split
  · exact hset.trans (.retest _ _)
  · exact hset

/-- A count of 0 or above 64 is discarded (R180). -/
theorem KeepsRegisters.writeCoalesce (s : State) (v : Word) : KeepsRegisters s (s.writeCoalesce v) := by
  unfold State.writeCoalesce
  dsimp only
  split
  · exact .refl s
  · next hlegal =>
    have hset : KeepsRegisters s
        (s.modRegs fun r => { r with intCount := v.setWidth 7, intTime := v.extractLsb' 16 16 }) :=
      ⟨fun b => ⟨b.unsignalled, by constructor <;> simp only [State.modRegs_link] <;> omega, b.check, b.checkRange⟩⟩
    exact hset.trans (.retest _ _)

/-- CHECK is the number of one of the six enable checks (R182). -/
theorem Registers.enableFault_le {r : Registers} {n : Nat} (h : r.enableFault = some n) : n ≤ 6 := by
  unfold Registers.enableFault at h
  split_ifs at h <;> cases h <;> decide

theorem KeepsRegisters.tryEnable (s : State) : KeepsRegisters s s.tryEnable := by
  unfold State.tryEnable
  split
  · next n hfault => exact ⟨fun b => ⟨b.unsignalled, b.count, nofun, Registers.enableFault_le hfault⟩⟩
  · exact ⟨fun b => ⟨Nat.zero_le _, b.count, fun _ => rfl, Nat.zero_le _⟩⟩

/-- A soft reset keeps the coalescing count and resets the others (R181). -/
theorem KeepsRegisters.softReset (s : State) : KeepsRegisters s s.softReset :=
  ⟨fun b => ⟨Nat.zero_le _, b.count, fun _ => rfl, Nat.zero_le _⟩⟩

theorem KeepsRegisters.writeControl (s : State) (enable intEnable : Bool) :
    KeepsRegisters s (s.writeControl enable intEnable) := by
  unfold State.writeControl
  split
  case h_1 => exact .trans (.tryEnable s) (.writeIntEnable _ _)
  case h_5 | h_6 => exact .softReset s
  all_goals exact .writeIntEnable s _

theorem KeepsRegisters.writeTail (s : State) (r : RingId) (v : Word) : KeepsRegisters s (s.writeTail r v) := by
  unfold State.writeTail
  dsimp only
  split
  · split
    · exact .of_same rfl
    · exact (Calm.haltRing _ _ _ _ _).keepsRegisters
  · exact .refl s

theorem KeepsRegisters.writeHead (s : State) (v : Word) : KeepsRegisters s (s.writeHead v) := by
  unfold State.writeHead
  split
  · split <;> exact .of_same rfl
  · exact .of_same rfl

theorem KeepsRegisters.writeWide (s : State) (offset : Nat) (v : BitVec 64) :
    KeepsRegisters s (s.writeWide offset v) := by
  unfold State.writeWide
  split <;> exact .of_same rfl

theorem KeepsRegisters.writeWord (s : State) (offset : Nat) (v : Word) :
    KeepsRegisters s (s.writeWord offset v) := by
  unfold State.writeWord
  split
  case h_1 => exact .writeControl s _ _
  case h_8 => exact .writeHead s v
  case h_9 => exact .writeCoalesce s v
  case h_12 | h_13 | h_14 | h_15 | h_16 => exact .writeTail s _ v
  all_goals exact .of_same rfl

theorem KeepsRegisters.writeWindow (s : State) (offset width : Nat) (v : BitVec 64) :
    KeepsRegisters s (s.writeWindow offset width v) := by
  unfold State.writeWindow
  split
  · exact .writeWide s offset v
  · split
    · exact .writeWord s offset _
    · exact .refl s

/-! ### Reads that end -/

theorem State.pickRing_link {s t : State} {r : RingId} (h : s.pickRing = some (r, t)) : t.link = s.link := by
  unfold State.pickRing at h
  split at h
  · cases h; rfl
  · split at h
    · cases h; rfl
    · split at h <;> cases h
      rfl

theorem KeepsRegisters.fetchBegin (s : State) : ∃ t, exec .fetchBegin s = .next t ∧ KeepsRegisters s t := by
  refine ⟨_, rfl, ?_⟩
  split
  · split
    · next r t hp =>
      exact .trans (.of_same (congrArg HostLink.bounded (State.pickRing_link hp))) (.of_same rfl)
    · exact .refl s
  · exact .refl s

theorem KeepsRegisters.fetchData (s : State) (f : Fetch) (record : List Byte) :
    KeepsRegisters s (s.fetchData f record) := by
  unfold State.fetchData
  split
  · unfold State.dispatchRecord
    split
    · exact (Calm.complete _ _ _ _ _ _).keepsRegisters_after rfl
    · exact .of_same rfl
  · exact .of_same rfl

theorem KeepsRegisters.failLoad (s : State) (c : CtxId) (load : Nat) (st : Status) (w0 w1 w2 : Word) :
    KeepsRegisters s (s.failLoad c load st w0 w1 w2) :=
  (Calm.complete _ _ _ _ _ _).keepsRegisters_after rfl

theorem KeepsRegisters.loadData (s : State) (c : CtxId) (load : Nat) (data : List Byte) :
    KeepsRegisters s (s.loadData c load data) := by
  unfold State.loadData
  dsimp only
  split
  · exact .failLoad _ _ _ _ _ _ _
  · split
    · exact (Calm.complete _ _ _ _ _ _).keepsRegisters_after rfl
    · exact .failLoad _ _ _ _ _ _ _

theorem KeepsRegisters.fetchFails (s : State) (f : Fetch) (cause : Nat) :
    KeepsRegisters s (s.fetchFails f cause) := by
  unfold State.fetchFails
  dsimp only
  split
  · exact (Calm.haltRing _ _ _ _ _).keepsRegisters_after rfl
  · exact .of_same rfl

theorem KeepsRegisters.readFails (s : State) (k : Nat) (r : OutstandingRead) (cause : Nat) :
    KeepsRegisters s (s.readFails k r cause) := by
  unfold State.readFails
  dsimp only
  split
  · split
    · split
      · exact (KeepsRegisters.fetchFails _ _ _).after_same rfl
      · exact .of_same rfl
    · split
      · exact (KeepsRegisters.failLoad _ _ _ _ _ _ _).after_same rfl
      · exact .of_same rfl
  · exact .of_same rfl

theorem KeepsRegisters.fetchReturn (record : List Byte) (s : State) :
    ∃ t, exec (.fetchReturn record) s = .next t ∧ KeepsRegisters s t := by
  refine ⟨_, rfl, ?_⟩
  split
  · split
    · split
      · split
        · exact (KeepsRegisters.fetchData _ _ _).after_same rfl
        · exact .of_same rfl
      · exact .of_same rfl
    · exact .refl s
  · exact .refl s

theorem KeepsRegisters.sequenceReadReturn (k : Nat) (data : List Byte) (s : State) :
    ∃ t, exec (.sequenceReadReturn k data) s = .next t ∧ KeepsRegisters s t := by
  refine ⟨_, rfl, ?_⟩
  split
  · split
    · split
      · split
        · exact (KeepsRegisters.loadData _ _ _ _).after_same rfl
        · exact .of_same rfl
      · exact .refl s
    · exact .refl s
  · exact .refl s

/-! ### Owners -/

theorem KeepsRegisters.finishReturn (s : State) (c : CtxId) (entry : Nat) (a : Answer) :
    KeepsRegisters s (s.finishReturn c entry a) :=
  ((Calm.cancelUpdates _ c).trans (.handIn _ _)).keepsRegisters_after rfl

theorem KeepsRegisters.setOutput (s : State) (e : Nat) (c : CtxId) (n : Fin 2) (kind : Byte) (code : Half) :
    KeepsRegisters s (s.setOutput e c n kind code) := by
  unfold State.setOutput
  dsimp only
  split <;> exact (Calm.handIn _ _).keepsRegisters_after rfl

theorem State.setChannel_link (s : State) (p : ChannelParams) : (s.setChannel p).link = s.link := by
  unfold State.setChannel
  dsimp only
  split <;> rfl

theorem KeepsRegisters.abortActive (s : State) (c : CtxId) (entry : Nat) :
    KeepsRegisters s (s.abortActive c entry) := by
  unfold State.abortActive
  split
  · exact .of_same rfl
  · refine ((Calm.takeBackGrant _ c).trans (.settleCtx _ c)).keepsRegisters_after ?_
    rw [State.giveUpPlace_same]
    rfl

theorem KeepsRegisters.abortLoad (s : State) (c : CtxId) (entry : Nat) : KeepsRegisters s (s.abortLoad c entry) := by
  unfold State.abortLoad
  dsimp only
  split <;> exact (Calm.handIn _ _).keepsRegisters_after rfl

theorem KeepsRegisters.abort (src : RingId) (event : CtxEvent) (s : State) :
    ∃ t, exec (.abort src event) s = .next t ∧ KeepsRegisters s t := by
  refine ⟨_, rfl, .ownerTakes fun e t => ?_⟩
  split
  case h_1 | h_2 | h_3 => exact .trans (.abortActive t event.ctx e) (Calm.readBy _ _ _).keepsRegisters
  case h_4 => exact .abortLoad _ _ _
  case h_5 =>
    split
    · exact (Calm.complete _ _ _ _ _ _).keepsRegisters
    · exact (Calm.settleCtx _ _).keepsRegisters_after rfl
  all_goals exact (Calm.complete _ _ _ _ _ _).keepsRegisters

theorem KeepsRegisters.pulse (src : RingId) (event : CtxEvent) (s : State) :
    ∃ t, exec (.pulse src event) s = .next t ∧ KeepsRegisters s t := by
  refine ⟨_, rfl, .ownerTakes fun e t => ?_⟩
  dsimp only
  split
  · have htick : Calm t (if (t.ctx event.ctx).takesPulse then t.deliverTick event.ctx else (t, .notTaken)).1 := by
      split
      · exact .deliverTick _ _
      · exact .refl t
    exact (((htick.trans (.handIn _ _)).trans (.settleCtx _ _)).trans (.readBy _ _ _)).keepsRegisters
  · exact (Calm.complete _ _ _ _ _ _).keepsRegisters

theorem KeepsRegisters.completeCalibration (s : State) (st : Status) (w0 w1 w2 : Word) :
    KeepsRegisters s (s.completeCalibration st w0 w1 w2) := by
  unfold State.completeCalibration
  split
  · exact (Calm.complete _ _ _ _ _ _).keepsRegisters
  · exact .refl s

theorem KeepsRegisters.entryMeasured (s : State) (k : Fin 16) (low high : Half) :
    KeepsRegisters s (s.entryMeasured k low high) := by
  have harb (f : Conversion → Conversion) : KeepsRegisters s (s.freeConverter.modConv f).arbitrate :=
    (Calm.arbitrate _).keepsRegisters_after rfl
  unfold State.entryMeasured
  dsimp only
  split
  · exact (harb _).trans (.completeCalibration _ _ _ _ _)
  · split
    · exact .of_same rfl
    · split
      · exact harb _
      · exact (harb _).trans (.completeCalibration _ _ _ _ _)

/-! ### Entry into FAILED -/

/-- Only INT_CAUSE among the registers takes the staging error (R184). -/
theorem KeepsRegisters.sendFrame (s : State) (c : CtxId) (b : Buffer) (staging : Bool) :
    KeepsRegisters s (s.sendFrame c b staging) := by
  unfold State.sendFrame
  dsimp only
  split
  · rw [HostLink.failByStaging_eq]
    exact .of_same rfl
  · split
    · exact .of_same rfl
    · exact .refl s

theorem KeepsRegisters.writeOldest (s : State) (c : CtxId) (staging : Bool) :
    KeepsRegisters s (s.writeOldest c staging) := by
  unfold State.writeOldest
  dsimp only
  split
  · exact (Calm.settleCtx _ _).keepsRegisters
  · split
    · split
      · exact .refl s
      · split
        · exact (Calm.settleCtx _ _).keepsRegisters_after rfl
        · exact .sendFrame _ _ _ _
    · split
      · exact (Calm.settleCtx _ _).keepsRegisters
      · exact .sendFrame _ _ _ _

/-- Everything the FAILED message does (R184, R194). -/
theorem HostLink.failedMessage_eq (h : HostLink) : h.failedMessage =
    if h.regs.intEnable then { h with
      regs := { h.regs with intCause := .failed }
      bus := { h.bus with
        class1 := if h.endpoint.messages then h.bus.class1 ++ [.message .failed] else h.bus.class1 } }
    else h := by
  simp only [HostLink.failedMessage, HostLink.queueMessage]
  split
  · split <;> rfl
  · rfl

theorem HostLink.failedMessage_bounded (h : HostLink) : h.failedMessage.bounded = h.bounded := by
  rw [HostLink.failedMessage_eq]
  split <;> rfl

/-! ### Every command -/

theorem Calm.advanceTo (s : State) (t : Time) : Calm s (s.advanceTo t) := .of_same rfl rfl rfl rfl

theorem Calm.internalTick (s : State) (c : CtxId) (period : Nat) : Calm s (s.internalTick c period) :=
  ((Calm.advanceTo s _).trans (.modCtx c fun x => x.tickCounted_within _)).trans (.tickContext _ c)

/-- Every command leads to a next state, and keeps the registers legal. -/
theorem exec_keepsRegisters (i : Instr) (s : State) : ∃ t, exec i s = .next t ∧ KeepsRegisters s t := by
  cases i
  case powerOn | linkReset => exact ⟨_, rfl, .of_reset rfl⟩
  case enable | softReset => exact ⟨_, rfl, .hostAccess (.writeControl _ _ _)⟩
  case intEnable => exact ⟨_, rfl, .hostAccess (.writeIntEnable _ _)⟩
  case submitTail => exact ⟨_, rfl, .hostAccess (.writeTail _ _ _)⟩
  case cplHead => exact ⟨_, rfl, .hostAccess (.writeHead _ _)⟩
  case intCoalesce => exact ⟨_, rfl, .hostAccess (.writeCoalesce _ _)⟩
  case registerWrite => exact ⟨_, rfl, .hostAccess (.writeWindow _ _ _ _)⟩
  case intCauseRead | endpointConfigurationWrite => exact ⟨_, rfl, .hostAccess (.of_same rfl)⟩
  case fetchBegin => exact KeepsRegisters.fetchBegin s
  case fetchReturn => exact KeepsRegisters.fetchReturn _ s
  case sequenceReadReturn => exact KeepsRegisters.sequenceReadReturn _ _ s
  case abort => exact KeepsRegisters.abort _ _ s
  case pulse => exact KeepsRegisters.pulse _ _ s
  case report => exact ⟨_, rfl, .ownerTakes fun e t => .of_same rfl⟩
  all_goals refine ⟨_, rfl, ?_⟩
  -- Owners: what they change is no register, and then they hand in.
  case createRing | deleteRing | rearmLimit | defineContext | postBuffer | setLines | setCounter =>
    refine .ownerTakes fun e t => ?_
    split <;> exact (Calm.handIn _ _).keepsRegisters_after rfl
  case loadSequence =>
    refine .ownerTakes fun e t => ?_
    split
    · exact (KeepsRegisters.refl t).handIn _
    · exact .of_same rfl
  case barrier =>
    refine .ownerTakes fun e t => ?_
    split
    · exact .of_same rfl
    · exact (KeepsRegisters.refl t).handIn _
  case setChannel p =>
    refine .ownerTakes fun e t => ?_
    split
    · exact (KeepsRegisters.refl t).handIn _
    · exact (KeepsRegisters.of_same (congrArg HostLink.bounded (t.setChannel_link p))).handIn _
  case setOutput =>
    refine .ownerTakes fun e t => ?_
    split
    · exact (KeepsRegisters.refl t).handIn _
    · exact .setOutput _ _ _ _ _ _
  case arm =>
    refine .ownerTakes fun e t => ?_
    split
    · exact (KeepsRegisters.refl t).handIn _
    · dsimp only
      split
      · exact (Calm.takeTrigger _ _).keepsRegisters_after rfl
      · exact .of_same rfl
  case stop =>
    refine .ownerTakes fun e t => ?_
    split
    · exact (Calm.settleCtx _ _).keepsRegisters_after rfl
    · exact (KeepsRegisters.refl t).handIn _
  case resetContext =>
    refine .ownerTakes fun e t => ?_
    dsimp only
    split
    case h_1 | h_2 | h_3 => exact (KeepsRegisters.finishReturn _ _ _ _).after_same rfl
    all_goals exact (KeepsRegisters.refl t).handIn _
  case releaseContext =>
    refine .ownerTakes fun e t => ?_
    dsimp only
    split
    case h_2 | h_3 | h_4 => exact (KeepsRegisters.finishReturn _ _ _ _).after_same rfl
    all_goals exact (KeepsRegisters.refl t).handIn _
  case calibrate =>
    refine .ownerTakes fun e t => ?_
    split
    · exact (KeepsRegisters.refl t).handIn _
    · split
      · exact (KeepsRegisters.refl t).handIn _
      · exact (Calm.arbitrate _).keepsRegisters_after rfl
  -- Events of the blocks: each has its condition, and what it changes is no register.
  case reportWriteDone =>
    split
    · exact (Calm.handIn _ _).keepsRegisters_after rfl
    · exact .refl s
  case readErrorCompletion =>
    split
    · split
      · exact .readFails _ _ _ _
      · exact .refl s
    · exact .refl s
  case readTimeout =>
    split
    · exact .trans (Calm.advanceTo s _).keepsRegisters (.readFails _ _ _ _)
    · exact .refl s
  case calEntryMeasured =>
    split
    · exact .entryMeasured _ _ _ _
    · exact .refl s
  case calStoreDone =>
    split
    · exact .trans (.of_same (congrArg HostLink.bounded (s.modConv_link _))) (.completeCalibration _ _ _ _ _)
    · exact .refl s
  case lineEdge =>
    split
    · exact ((Calm.handEdge _ _ _ _).trans (.readBy _ _ _)).keepsRegisters_after rfl
    · exact .of_same rfl
  case internalTick =>
    split
    · split
      · exact .refl s
      · exact ((Calm.internalTick _ _ _).trans (.readBy _ _ _)).keepsRegisters
    · exact .refl s
  case slotEnd =>
    split
    · exact ((((Calm.advanceTo s _).trans (.handSample _ _ _ _)).trans (.endSlot _ _)).trans
        (.readBy _ _ _)).keepsRegisters
    · exact .refl s
  case triggerTimeout | flushTimer =>
    split
    · exact (Calm.settleCtx _ _).keepsRegisters_after rfl
    · exact .refl s
  case frameWriteEnd =>
    split
    · split
      · exact (Calm.settleCtx _ _).keepsRegisters_after rfl
      · exact .of_same rfl
    · exact .refl s
  case claimantHandedIn =>
    split
    · split
      · next h => exact ((Calm.joinClaim (s := s.dropClaimant) h.2 _).trans (.handIn _ _)).keepsRegisters_after rfl
      · exact .refl s
    · exact .refl s
  case eventPulseEnd => split <;> exact .of_same rfl
  case completionWriteBegin | busTransferSend | linkLoss =>
    split
    · split <;> exact .of_same rfl
    · exact .refl s
  -- Events of the Host Link that count a record or set INT_CAUSE.
  case frameWriteBegin =>
    split
    · exact .writeOldest _ _ _
    · exact .refl s
  case linkReturn =>
    split
    · exact .refl s
    · dsimp only
      split
      · exact .of_same (HostLink.failedMessage_bounded _)
      · exact .of_same rfl
  case completionWriteDone =>
    split
    · dsimp only
      split
      · have hcounted : KeepsRegisters s { s.sent with
            cpl := s.cpl.recordSent, link := s.sent.link.recordSent s.timeBase } :=
          (KeepsRegisters.recordSent { s.sent with cpl := s.cpl.recordSent } s.timeBase).after_same rfl
        exact hcounted.trans (.testAfterSend _ _ _)
      · exact .of_same rfl
    · exact .refl s
  case firstUnsignalledDeadline =>
    split
    · split
      · dsimp only
        rw [HostLink.interrupt_eq]
        exact KeepsRegisters.after_same (.messageOf (s.advanceTo _) _) rfl
      · exact .refl s
    · exact .refl s

/-- Settles O58. A record sent counts up to 64 at the most, INT_COALESCE takes a legal count alone, and CHECK is set by
the enable checks and cleared with CONFIG_ERROR. -/
theorem stepKeepsRegisterBounds : Obligations.StepKeepsRegisterBounds := by
  intro s t hs h
  cases hq : s.pending with
  | nil =>
    cases (step_idle hq).symm.trans h
    exact hs.congr rfl
  | cons i rest =>
    obtain ⟨u, hu, hk⟩ := exec_keepsRegisters i { s with pending := rest }
    cases hu.symm.trans ((step_cons hq).symm.trans h)
    exact hk.bounds (hs.congr rfl)

end Sys2Proof.Machine
end

section
/-!
PROOFS. The device states and the Host Link's messages: resets, link events, the enable checks, and the tests of R193.
-/

namespace Sys2Proof.Machine

open Sys2Proof

-- One thread at a time: each thread of a parallel proof reserves 1 GiB of the check's memory limit.
set_option Elab.async false

section

variable {s : State}

/-! ### CONTROL -/

/-- ENABLE 0 on a device that is not OFFLINE is a soft reset (R183). -/
theorem State.writeControl_softReset (h : s.link.device ≠ .offline) (v : Bool) :
    s.writeControl false v = s.softReset := by
  unfold State.writeControl
  cases hd : s.link.device with
  | offline => exact absurd hd h
  | online | failed => rfl

/-- ENABLE 1 on a device that is OFFLINE makes the enable checks before INT_ENABLE is written (R182). -/
theorem State.writeControl_enable (h : s.link.device = .offline) (v : Bool) :
    s.writeControl true v = s.tryEnable.writeIntEnable v := by
  simp only [State.writeControl, h]

/-- ENABLE 1 on a device that is not OFFLINE keeps the device state (R182). -/
theorem State.writeControl_true_keeps (h : s.link.device ≠ .offline) (v : Bool) :
    s.writeControl true v = s.writeIntEnable v := by
  unfold State.writeControl
  cases hd : s.link.device with
  | offline => exact absurd hd h
  | online | failed => rfl

/-- ENABLE 0 on a device that is OFFLINE keeps the device state (R183). -/
theorem State.writeControl_false_keeps (h : s.link.device = .offline) (v : Bool) :
    s.writeControl false v = s.writeIntEnable v := by
  simp only [State.writeControl, h]

/-! ### Resets -/

/-- A soft reset of a link that operates (R181, R183). -/
theorem State.softReset_operating (hop : s.link.operating = true) : s.softReset = { freshAfter s with
    link := { HostLink.reset with
      endpoint := s.link.endpoint
      regs := s.link.regs.softReset } } := by
  unfold State.softReset
  rw [hop]
  rfl

/-- Settles O4: a reset is `freshAfter`, and a soft reset gives it the registers R181 keeps. -/
theorem resetsKeepTheCorrectionTable : Obligations.ResetsKeepTheCorrectionTable := by
  intro s intEnable
  refine ⟨rfl, fun hop hd => ?_⟩
  have hexec : exec (.softReset intEnable) s = .next (s.writeControl false intEnable) :=
    congrArg Host.Outcome.next (s.hostAccess_operating hop _)
  rw [hexec, State.writeControl_softReset hd, State.softReset_operating hop]
  rfl

/-! ### Link events -/

/-- LINK_LOSS of an operating link (R184, R186). -/
theorem exec_linkLoss (hop : s.link.operating = true) : exec .linkLoss s = .next
    (if s.link.device = .online then { s with link := s.link.failByLoss }
    else { s with link := { s.link with operating := false, bus := { s.link.bus with busy := false } } }) :=
  congrArg Host.Outcome.next (if_pos hop)

/-- LINK_RETURN of a link that does not operate (R186, R194). -/
theorem exec_linkReturn (hop : s.link.operating = false) : exec .linkReturn s = .next
    { s with link := if s.link.device = .failed ∧ s.link.failedOwed then
        HostLink.failedMessage { s.link with operating := true, failedOwed := false }
      else { s.link with operating := true, failedOwed := false } } :=
  congrArg Host.Outcome.next (if_neg (by simp [hop]))

/-- Settles O5, by the device state at a loss, and by whether a message is owed and may be sent at a return. -/
theorem linkEventsAndEndpointConfiguration : Obligations.LinkEventsAndEndpointConfiguration := by
  intro s
  refine ⟨fun hop hd => ?_, fun hop hd => ?_, fun hop hd howed hen => ?_, fun hop hno => ?_,
    fun busMaster messages address hop => congrArg Host.Outcome.next (s.hostAccess_operating hop _)⟩
  · rw [exec_linkLoss hop, if_pos hd]
    rfl
  · rw [exec_linkLoss hop, if_neg hd]
  · rw [exec_linkReturn hop, if_pos ⟨hd, howed⟩, HostLink.failedMessage_eq, if_pos hen]
  · rw [exec_linkReturn hop]
    split
    · next hfailed =>
      rw [HostLink.failedMessage_eq, if_neg fun hen => hno ⟨hfailed.1, hfailed.2, hen⟩]
    · rfl

end

/-! ### The tests of R193 -/

section

variable {h : HostLink} {now : Time}

/-- The count comes before the deadline (R193). -/
theorem HostLink.retest_count (htests : h.regs.intEnable = true ∧ h.device = .online)
    (hcount : h.regs.intCount.toNat ≤ h.unsignalled) : h.retest now = messageOf h .count := by
  rw [HostLink.retest_eq, if_pos htests, if_pos hcount]

theorem HostLink.retest_late (htests : h.regs.intEnable = true ∧ h.device = .online)
    (hcount : ¬h.regs.intCount.toNat ≤ h.unsignalled) (hlate : ∃ d, h.deadline = some d ∧ d.toNat ≤ now.toNat) :
    h.retest now = messageOf h .time := by
  rw [HostLink.retest_eq, if_pos htests, if_neg hcount, if_pos ((h.deadlineReached_iff now).2 hlate)]

theorem HostLink.retest_quiet (hquiet : ¬((h.regs.intEnable = true ∧ h.device = .online) ∧
    (h.regs.intCount.toNat ≤ h.unsignalled ∨ ∃ d, h.deadline = some d ∧ d.toNat ≤ now.toNat))) :
    h.retest now = h := by
  rw [HostLink.retest_eq]
  split
  · next htests =>
    rw [if_neg fun hcount => hquiet ⟨htests, .inl hcount⟩,
      if_neg fun hlate => hquiet ⟨htests, .inr ((h.deadlineReached_iff now).1 hlate)⟩]
  · rfl

end

section

variable {s : State} {v : Bool}

/-- INT_ENABLE changes from 0 to 1 (R193). -/
theorem State.writeIntEnable_set (hv : v = true) (hbit : s.link.regs.intEnable = false) :
    s.writeIntEnable v = { s with link := (s.link.setIntEnable v).retest s.timeBase } := by
  have hchange : v = true ∧ (!s.link.regs.intEnable) = true := ⟨hv, by rw [hbit]; rfl⟩
  exact congrArg (fun link => { s with link := link }) (if_pos hchange)

/-- Without a change from 0 to 1 on an ONLINE device, or with neither test met, no message is sent (R193). -/
theorem State.writeIntEnable_quiet
    (hquiet : ¬((v = true ∧ s.link.regs.intEnable = false ∧ s.link.device = .online) ∧
      (s.link.regs.intCount.toNat ≤ s.link.unsignalled ∨
        ∃ d, s.link.deadline = some d ∧ d.toNat ≤ s.timeBase.toNat))) :
    s.writeIntEnable v = { s with link := s.link.setIntEnable v } := by
  by_cases hset : v = true ∧ s.link.regs.intEnable = false
  · obtain ⟨hv, hbit⟩ := hset
    rw [State.writeIntEnable_set hv hbit, HostLink.retest_quiet]
    rintro ⟨⟨-, hd⟩, htest⟩
    exact hquiet ⟨⟨hv, hbit, hd⟩, htest⟩
  · have hkeeps : ¬(v = true ∧ (!s.link.regs.intEnable) = true) := by simpa using hset
    exact congrArg (fun link => { s with link := link }) (if_neg hkeeps)

end

/-- Settles O8: the three outcomes of the tests, and the CONTROL writes that only write the bit. -/
theorem intEnableMakesTheTests : Obligations.IntEnableMakesTheTests := by
  intro s value hop h tests count late
  have hlink : s.link.setIntEnable value = h := s.link.setIntEnable_eq value
  have hcontrol (enable : Bool) :
      (.next (s.hostAccess fun t => t.writeControl enable value) : Result) = .next (s.writeControl enable value) :=
    congrArg Host.Outcome.next (s.hostAccess_operating hop _)
  have hexec : exec (.intEnable value) s = .next (s.writeIntEnable value) :=
    congrArg Host.Outcome.next (s.hostAccess_operating hop _)
  refine ⟨fun ⟨hv, hbit, hd⟩ hcount => ?_, fun ⟨hv, hbit, hd⟩ hcount hlate => ?_, fun hquiet => ?_, fun hd => ?_,
    fun hd => ?_⟩
  · rw [hexec, State.writeIntEnable_set hv hbit, hlink, HostLink.retest_count (h := h) ⟨hv, hd⟩ hcount]
  · rw [hexec, State.writeIntEnable_set hv hbit, hlink, HostLink.retest_late (h := h) ⟨hv, hd⟩ hcount hlate]
  · rw [hexec, State.writeIntEnable_quiet hquiet, hlink]
  · exact ((hcontrol true).trans (by rw [State.writeControl_true_keeps hd])).trans hexec.symm
  · exact ((hcontrol false).trans (by rw [State.writeControl_false_keeps hd])).trans hexec.symm

/-! ### INT_COALESCE -/

/-- INT_COALESCE with a legal count: both fields are taken, and then the tests are made (R180, R193). -/
theorem State.writeCoalesce_legal (s : State) {value : Word} (hlow : 1 ≤ value.toNat % 128)
    (hhigh : value.toNat % 128 ≤ 64) :
    s.writeCoalesce value = { s with link := HostLink.retest { s.link with regs := { s.link.regs with
      intCount := BitVec.ofNat 7 (value.toNat % 128)
      intTime := BitVec.ofNat 16 (value.toNat / 65536) } } s.timeBase } := by
  have hcount : value.setWidth 7 = BitVec.ofNat 7 (value.toNat % 128) := BitVec.eq_of_toNat_eq (by simp)
  have htime : value.extractLsb' 16 16 = BitVec.ofNat 16 (value.toNat / 65536) :=
    BitVec.eq_of_toNat_eq (by simp [Nat.shiftRight_eq_div_pow])
  unfold State.writeCoalesce
  simp only [hcount, htime]
  rw [if_neg (by simp only [BitVec.toNat_ofNat]; omega)]
  rfl

/-- INT_COALESCE with a count of 0 or above 64 is discarded whole (R180). -/
theorem State.writeCoalesce_illegal (s : State) {value : Word}
    (h : value.toNat % 128 = 0 ∨ 64 < value.toNat % 128) : s.writeCoalesce value = s := by
  unfold State.writeCoalesce
  exact if_pos (by simp only [BitVec.toNat_setWidth]; omega)

/-- Settles O12, by the count written and the three outcomes of the tests. -/
theorem intCoalesceMakesTheTests : Obligations.IntCoalesceMakesTheTests := by
  intro s value hop count h tests late
  have hexec : exec (.intCoalesce value) s = .next (s.writeCoalesce value) :=
    congrArg Host.Outcome.next (s.hostAccess_operating hop _)
  refine ⟨fun hbad => by rw [hexec, s.writeCoalesce_illegal hbad], fun hlow hhigh => ?_⟩
  have hlegal : exec (.intCoalesce value) s = .next { s with link := h.retest s.timeBase } := by
    rw [hexec, s.writeCoalesce_legal hlow hhigh]
  have hnew : h.regs.intCount.toNat = count := Nat.mod_mod _ _
  refine ⟨fun htests hcount => ?_, fun htests hcount hlate => ?_, fun hquiet => ?_⟩
  · rw [hlegal, HostLink.retest_count (h := h) htests (hnew.trans_le hcount)]
  · rw [hlegal, HostLink.retest_late (h := h) htests (by rw [hnew]; exact Nat.not_le.2 hcount) hlate]
  · rw [hlegal, HostLink.retest_quiet (h := h) (by rw [hnew]; exact hquiet)]

/-! ### ENABLE -/

/-- The enable checks of R182, in order. -/
def Registers.enableChecks (r : Registers) : List Bool :=
  [ [4, 8, 16, 32, 64, 128, 256].contains r.adminSize.toNat,
    r.adminBase.toNat % 64 == 0,
    r.adminBase.toNat + 64 * r.adminSize.toNat - 1 < r.dmaLimit.toNat,
    [16, 32, 64, 128, 256, 512, 1024, 2048, 4096].contains r.cplSize.toNat,
    r.cplBase.toNat % 64 == 0,
    r.cplBase.toNat + 32 * r.cplSize.toNat - 1 < r.dmaLimit.toNat ]

/-- The powers of two within two bounds, listed. -/
theorem isPowerOfTwoIn_eq_contains {lo hi : Nat} {powers : List Nat}
    (h : (((List.range 13).map (2 ^ ·)).filter fun n => lo ≤ n && n ≤ hi) = powers) (n : Nat) :
    isPowerOfTwoIn lo hi n = powers.contains n := by
  rw [← h, Bool.eq_iff_iff]
  simp only [isPowerOfTwoIn, List.contains_iff_mem, List.mem_filter, List.mem_map, List.any_eq_true, Bool.and_eq_true,
    decide_eq_true_eq, beq_iff_eq]
  exact and_comm

/-- The model's fault is the first of the checks that fails, numbered from 1 (R182). -/
theorem Registers.enableFault_eq (r : Registers) :
    r.enableFault = (r.enableChecks.findIdx? (· == false)).map (· + 1) := by
  have hadmin : ∀ n, isPowerOfTwoIn 4 256 n = [4, 8, 16, 32, 64, 128, 256].contains n :=
    isPowerOfTwoIn_eq_contains rfl
  have hcpl : ∀ n, isPowerOfTwoIn 16 4096 n = [16, 32, 64, 128, 256, 512, 1024, 2048, 4096].contains n :=
    isPowerOfTwoIn_eq_contains rfl
  simp only [Registers.enableFault, hadmin, hcpl, Registers.enableChecks, firstFailing_cons, Bool.not_eq_true',
    beq_eq_false_iff_ne, decide_eq_false_iff_not, firstFailing_nil, Nat.reduceAdd]

/-- The first check that fails gives CHECK (R182). -/
theorem State.tryEnable_fails {s : State} {k : Nat} (h : s.link.regs.enableChecks.findIdx? (· == false) = some k) :
    s.tryEnable = s.modRegs fun r => { r with configError := true, check := k + 1 } := by
  simp only [State.tryEnable, Registers.enableFault_eq, h, Option.map_some]

/-- With no check failing the device goes ONLINE (R182). -/
theorem State.tryEnable_passes {s : State} (h : s.link.regs.enableChecks.findIdx? (· == false) = none) :
    s.tryEnable = s.goOnline := by
  simp only [State.tryEnable, Registers.enableFault_eq, h, Option.map_none]

/-- Settles O7: a device that stays OFFLINE sends no message, and one that goes ONLINE starts with nothing counted. -/
theorem enableMakesTheChecksInOrder : Obligations.EnableMakesTheChecksInOrder := by
  intro s intEnable hop hd hlegal r checks bus
  have hexec : exec (.enable intEnable) s = .next (s.tryEnable.writeIntEnable intEnable) :=
    congrArg Host.Outcome.next ((s.hostAccess_operating hop _).trans (State.writeControl_enable hd intEnable))
  split
  · next k hfind =>
    have hquiet : (s.modRegs fun r => { r with configError := true, check := k + 1 }).link.device ≠ .online := by
      simp [hd]
    rw [hexec, State.tryEnable_fails hfind, State.writeIntEnable_quiet fun hc => hquiet hc.1.2.2,
      HostLink.setIntEnable_eq]
    rfl
  · next hfind =>
    have hquiet : ¬(s.goOnline.link.regs.intCount.toNat ≤ s.goOnline.link.unsignalled ∨
        ∃ d, s.goOnline.link.deadline = some d ∧ d.toNat ≤ s.goOnline.timeBase.toNat) := by
      rintro (hcount | ⟨d, hdl, -⟩)
      · exact Nat.not_succ_le_zero 0 (hlegal.trans hcount)
      · cases hdl
    rw [hexec, State.tryEnable_passes hfind, State.writeIntEnable_quiet fun hc => hquiet hc.2, HostLink.setIntEnable_eq]
    rfl

end Sys2Proof.Machine
end

section
/-!
PROOFS. The register window by offset and width: what a read returns and what a write changes.
-/

namespace Sys2Proof.Machine

open Sys2Proof

-- One thread at a time: each thread of a parallel proof reserves 1 GiB of the check's memory limit.
set_option Elab.async false

/-! ### Writes by offset -/

/-- A 64-bit write elsewhere than at the three address registers is discarded (R180). -/
theorem State.writeWide_elsewhere (s : State) {offset : Nat} (h : offset ∉ [0x10, 0x20, 0x30]) (v : BitVec 64) :
    s.writeWide offset v = s := by
  unfold State.writeWide
  split
  case h_4 => rfl
  all_goals exact absurd h (by decide)

/-- A 32-bit write at a read-only register, above the registers, or off a multiple of 4 changes nothing (R180). -/
theorem State.writeWord_elsewhere (s : State) {offset : Nat}
    (h : offset ∈ [0x00, 0x08, 0x0C] ∨ 0x4C ≤ offset ∨ offset % 4 ≠ 0) (v : Word) : s.writeWord offset v = s := by
  unfold State.writeWord
  split
  case h_17 => rfl
  all_goals exact absurd h (by decide)

/-- A write of another width is an unsupported request (R180). -/
theorem State.writeWindow_elsewhere (s : State) {width : Nat} (h32 : width ≠ 32) (h64 : width ≠ 64) (offset : Nat)
    (v : BitVec 64) : s.writeWindow offset width v = s := by
  rw [State.writeWindow, if_neg h64, if_neg h32]

/-- The write at SUBMIT_TAILn. -/
theorem State.writeWord_tail (s : State) (n : RingId) (v : Word) :
    s.writeWord (0x38 + 4 * n.val) v = s.writeTail n v := by
  match n with
  | 0 | 1 | 2 | 3 | 4 => rfl

/-- Settles O13: each offset by the window's own table, and the others by what falls outside it. -/
theorem registerWriteByOffset : Obligations.RegisterWriteByOffset := by
  intro s offset width v hop low regs
  have hexec (o w : Nat) : exec (.registerWrite o w v) s = .next (s.writeWindow o w v) :=
    congrArg Host.Outcome.next (s.hostAccess_operating hop _)
  have hcontrol : exec (.registerWrite 0x04 32 v) s =
      .next (s.hostAccess fun t => t.writeControl (v.getLsbD 0) (v.getLsbD 1)) := by
    have hlow (k : Nat) (hk : k < 32) : low.getLsbD k = v.getLsbD k := by simp [low, hk]
    rw [← hlow 0 (by decide), ← hlow 1 (by decide)]
    rfl
  refine ⟨hexec _ _, hexec _ _, hexec _ _, fun ho => ?_, hexec _ _, hexec _ _, hexec _ _, hexec _ _, hexec _ _,
    hexec _ _, hexec _ _, hexec _ _, rfl, rfl, fun n => ?_, fun hbit => ?_, fun hbit => ?_, fun ho => ?_,
    fun h32 h64 => ?_⟩
  · rw [hexec]
    exact congrArg Host.Outcome.next (s.writeWide_elsewhere ho v)
  · exact congrArg (fun f => Host.Outcome.next (s.hostAccess f)) (funext fun t => t.writeWord_tail n low)
  · rw [hcontrol, hbit]
    rfl
  · rw [hcontrol, hbit]
    rfl
  · rw [hexec]
    exact congrArg Host.Outcome.next (s.writeWord_elsewhere ho low)
  · rw [hexec, s.writeWindow_elsewhere h32 h64]

/-! ### The bits of the registers that are worked out -/

/-- One bit at its place. -/
theorem bitAt_getLsbD (b : Bool) {n : Nat} (hn : n < 32) (k : Nat) :
    (bitAt b n).getLsbD k = true ↔ k = n ∧ b = true := by
  cases b with
  | false => simp [bitAt]
  | true =>
    have hone : (1 : Word).getLsbD (k - n) = (decide (0 < 32) && decide (k - n = 0)) := BitVec.getLsbD_one
    simp only [bitAt, if_true, BitVec.getLsbD_shiftLeft, hone, Bool.and_eq_true, Bool.not_eq_true', decide_eq_true_eq,
      decide_eq_false_iff_not, and_true]
    omega

/-- CHECK stands in bits 8 to 11 of STATUS (R180). -/
theorem checkField_getLsbD (n k : Nat) :
    ((word n &&& 0xF) <<< 8).getLsbD k = true ↔ 8 ≤ k ∧ k ≤ 11 ∧ n.testBit (k - 8) = true := by
  have hmask : (0xF : Word).getLsbD (k - 8) = decide (k - 8 < 4) := Nat.testBit_two_pow_sub_one 4 (k - 8)
  simp only [BitVec.getLsbD_shiftLeft, BitVec.getLsbD_and, hmask, word, BitVec.getLsbD_ofNat, Bool.and_eq_true,
    Bool.not_eq_true', decide_eq_true_eq, decide_eq_false_iff_not]
  constructor
  · rintro ⟨⟨-, hk⟩, ⟨-, hbit⟩, hwidth⟩
    exact ⟨by omega, by omega, hbit⟩
  · rintro ⟨hlow, hhigh, hbit⟩
    exact ⟨⟨by omega, by omega⟩, ⟨by omega, hbit⟩, by omega⟩

/-- INTAKE_PAUSED (R7). -/
theorem State.intakePaused_iff (s : State) :
    s.intakePaused = true ↔ s.link.device = .online ∧
      (∃ n, (s.ring n).state = .active ∧ (s.ring n).unfetched ≠ 0) ∧
      (32 ≤ s.intake.table.length ∨ 24 ≤ s.cpl.backlog.length) := by
  have hwaiting : s.anyWaiting = true ↔ ∃ n, (s.ring n).state = .active ∧ (s.ring n).unfetched ≠ 0 := by
    simp only [← Ring.waiting_iff, State.anyWaiting, State.ring, List.any_eq_true, Vector.mem_toList_iff,
      Vector.mem_iff_getElem]
    constructor
    · rintro ⟨_, ⟨n, hn, rfl⟩, hwaits⟩
      exact ⟨⟨n, hn⟩, hwaits⟩
    · rintro ⟨n, hwaits⟩
      exact ⟨_, ⟨n.val, n.isLt, rfl⟩, hwaits⟩
  simp only [State.intakePaused, State.intakeFull, Bool.and_eq_true, Bool.or_eq_true, beq_iff_eq, hwaiting,
    decide_eq_true_eq, and_assoc, Config.pendingEntries, Config.pauseLevel]

/-- STATUS bit by bit (R180, R181). -/
theorem State.statusWord_getLsbD (s : State) (k : Nat) :
    s.statusWord.getLsbD k = true ↔
      (k = 0 ∧ s.link.device = .online) ∨ (k = 1 ∧ s.link.device = .failed) ∨
      (k = 2 ∧ s.link.regs.configError = true) ∨ (k = 3 ∧ s.intakePaused = true) ∨
      (k = 4 ∧ s.conv.source = .default) ∨ (8 ≤ k ∧ k ≤ 11 ∧ s.link.regs.check.testBit (k - 8) = true) := by
  simp only [State.statusWord, BitVec.getLsbD_or, Bool.or_eq_true, checkField_getLsbD, bitAt_getLsbD, beq_iff_eq,
    or_assoc, Nat.reduceLT]

/-- CONTROL bit by bit (R180, R182). -/
theorem State.controlWord_getLsbD (s : State) (k : Nat) :
    s.controlWord.getLsbD k = true ↔
      (k = 0 ∧ s.link.device ≠ .offline) ∨ (k = 1 ∧ s.link.regs.intEnable = true) := by
  simp only [State.controlWord, BitVec.getLsbD_or, Bool.or_eq_true, bitAt_getLsbD, bne_iff_ne, Nat.reduceLT]

/-- The fields of IDENT, whatever the revision (R180). -/
theorem identWord_fields : identWord.extractLsb' 20 12 = 0xE17 ∧ identWord.extractLsb' 8 12 = 832 ∧
    identWord.extractLsb' 0 8 = Config.revision := by
  have hrevision : (Config.revision.setWidth 32).extractLsb' 0 8 = Config.revision := by
    ext i hi
    simp [hi]
    omega
  have habove (start : Nat) (h : 8 ≤ start) : (Config.revision.setWidth 32).extractLsb' start 12 = 0 := by
    ext i hi
    have hbit : Config.revision.getLsbD (start + i) = false := BitVec.getLsbD_of_ge _ _ (by omega)
    simp [hbit]
  simp only [identWord, BitVec.extractLsb'_or, hrevision, habove 20 (by decide), habove 8 (by decide)]
  exact ⟨rfl, rfl, BitVec.zero_or⟩

/-- INT_COALESCE holds the time above the count (R180). -/
theorem Registers.coalesceWord_eq (r : Registers) :
    r.coalesceWord = BitVec.ofNat 32 (65536 * r.intTime.toNat + r.intCount.toNat) := by
  have htime := r.intTime.isLt
  have hcount := r.intCount.isLt
  have hfields : r.intCount.toNat ||| r.intTime.toNat <<< 16 = 65536 * r.intTime.toNat + r.intCount.toNat := by
    rw [Nat.or_comm, ← Nat.shiftLeft_add_eq_or_of_lt (by omega), Nat.shiftLeft_eq, Nat.mul_comm]
  refine BitVec.eq_of_toNat_eq ?_
  simp only [Registers.coalesceWord, BitVec.toNat_or, BitVec.toNat_shiftLeft, BitVec.toNat_setWidth,
    BitVec.toNat_ofNat]
  rw [Nat.mod_eq_of_lt (by omega), Nat.mod_eq_of_lt (a := r.intTime.toNat) (by omega),
    Nat.mod_eq_of_lt (a := r.intTime.toNat <<< 16) (by rw [Nat.shiftLeft_eq]; omega), hfields,
    Nat.mod_eq_of_lt (by omega)]

/-! ### Reads by offset -/

theorem State.readRegister_above (s : State) {offset : Nat} (h : 0x4C ≤ offset) : s.readRegister offset = 0 := by
  unfold State.readRegister
  dsimp only
  split
  case h_20 => rfl
  all_goals exact absurd h (by decide)

/-- A 64-bit read elsewhere than at the three address registers is an unsupported request (R180). -/
theorem State.readWide_elsewhere (s : State) {offset : Nat} (h : offset ∉ [0x10, 0x20, 0x30]) :
    s.readWide offset = none := by
  unfold State.readWide
  split
  case h_4 => rfl
  all_goals exact absurd h (by decide)

/-- A read of another width, or at an offset that does not take its width, is an unsupported request (R180). -/
theorem State.readWindow_elsewhere (s : State) {offset width : Nat}
    (h32 : ¬(width = 32 ∧ offset % 4 = 0 ∧ offset < 0x80)) (h64 : ¬(width = 64 ∧ offset ∈ [0x10, 0x20, 0x30])) :
    s.readWindow offset width = none := by
  rw [State.readWindow, if_neg h32]
  split
  · next hwide => exact s.readWide_elsewhere fun ho => h64 ⟨hwide, ho⟩
  · rfl

theorem State.readWindow_word (s : State) {offset : Nat} (ho : offset % 4 = 0) (hlt : offset < 0x80) :
    s.readWindow offset 32 = some ((s.readRegister offset).setWidth 64) := by
  rw [State.readWindow, if_neg (by decide), if_pos ⟨rfl, ho, hlt⟩]

/-- Settles O11: each register by its own lemma, and the window by its three widths. -/
theorem registerReadsByOffset : Obligations.RegisterReadsByOffset := by
  intro s r cause waits paused
  have hpaused : s.intakePaused = true ↔ paused := s.intakePaused_iff
  have hcause : s.readRegister 0x0C = cause := by
    simp only [cause, r]
    change s.link.regs.intCause.code = _
    cases s.link.regs.intCause <;> rfl
  refine ⟨identWord_fields, s.controlWord_getLsbD, fun k => ?_, hcause, rfl, rfl, rfl, rfl, rfl, rfl, rfl,
    r.coalesceWord_eq, rfl, rfl, s.readRegister_tail, fun offset ho _ => s.readRegister_above ho, rfl, rfl, rfl,
    fun offset => s.readWindow_word, fun offset width => s.readWindow_elsewhere, fun hop => ?_⟩
  · rw [← hpaused]
    exact s.statusWord_getLsbD k
  · rw [← hcause]
    exact congrArg Host.Outcome.next (s.hostAccess_operating hop _)

end Sys2Proof.Machine
end

section
/-!
PROOFS. The bus-master arbiter: which transfer BUS_TRANSFER_SEND sends.
-/

namespace Sys2Proof.Machine

open Sys2Proof

-- One thread at a time: each thread of a parallel proof reserves 1 GiB of the check's memory limit.
set_option Elab.async false

/-! ### The class that is served -/

section

variable {b : Bus} {address : Addr} {now : Time}

/-- Class 3 looks at the contexts as the converter's arbiter does: in turn, from the one after the last served
(R188). -/
theorem contextsAfter_eq (last : CtxId) : contextsAfter last = (List.range 8).map (inTurn (some last)) :=
  searchFrom_eq (some last)

/-- The first in turn that holds a frame write is the next (R188). -/
theorem Bus.nextFrame_inTurn {k : Nat} (hk : k < 8) {w : FrameWrite}
    (hw : b.class3[(inTurn (some b.lastServed) k).val] = some w)
    (hbefore : ∀ j < k, b.class3[(inTurn (some b.lastServed) j).val] = none) :
    b.nextFrame = some (inTurn (some b.lastServed) k) := by
  rw [Bus.nextFrame, contextsAfter_eq, List.find?_eq_some_iff_getElem]
  refine ⟨Option.isSome_iff_exists.2 ⟨w, hw⟩, k, by simpa using hk, by simp, fun j hj => ?_⟩
  simpa using hbefore j hj

/-- With no frame write in class 3 there is no next (R188). -/
theorem Bus.nextFrame_none (h : ∀ c : CtxId, b.class3[c.val] = none) : b.nextFrame = none :=
  List.find?_eq_none.2 fun c _ => by simp [h c]

theorem Bus.sendNext_class1 {t : Class1} {rest : List Class1} (h : b.class1 = t :: rest) :
    b.sendNext address now = b.sendClass1 t rest address := by
  simp only [Bus.sendNext, h]

theorem Bus.sendNext_class2 (h1 : b.class1 = []) {r : ReadRequest} {rest : List ReadRequest}
    (h2 : b.class2 = r :: rest) : b.sendNext address now = b.sendRead r rest now := by
  simp only [Bus.sendNext, h1, h2]

theorem Bus.sendNext_class3 (h1 : b.class1 = []) (h2 : b.class2 = []) {c : CtxId} (h3 : b.nextFrame = some c) :
    b.sendNext address now = b.sendFrame c := by
  simp only [Bus.sendNext, h1, h2, h3]

theorem Bus.sendNext_class4 (h1 : b.class1 = []) (h2 : b.class2 = []) (h3 : b.nextFrame = none) {w : ReportWrite}
    {rest : List ReportWrite} (h4 : b.class4 = w :: rest) : b.sendNext address now = b.sendReport w rest := by
  simp only [Bus.sendNext, h1, h2, h3, h4]

theorem Bus.sendNext_nothing (h1 : b.class1 = []) (h2 : b.class2 = []) (h3 : b.nextFrame = none)
    (h4 : b.class4 = []) : b.sendNext address now = b := by
  simp only [Bus.sendNext, h1, h2, h3, h4]

/-- A context's frame write takes the link (R188). -/
theorem Bus.sendFrame_some {c : CtxId} {w : FrameWrite} (h : b.class3[c.val] = some w) :
    b.sendFrame c = { b with
      class3 := b.class3.set c.val none, lastServed := c, onLink := some (.frame c w), busy := true } := by
  simp only [Bus.sendFrame, h]

theorem Bus.sendFailed_message {rest : List Class1} (h : b.class1 = .message .failed :: rest) :
    b.sendFailed address = b.sendClass1 (.message .failed) rest address := by
  simp only [Bus.sendFailed, h]

/-- In FAILED anything but the FAILED message stays (R194). -/
theorem Bus.sendFailed_nothing (h : ∀ rest, b.class1 ≠ .message .failed :: rest) : b.sendFailed address = b := by
  unfold Bus.sendFailed
  split
  · next rest hfailed => exact absurd hfailed (h rest)
  · rfl

end

/-! ### BUS_TRANSFER_SEND -/

section

variable {s : State}

/-- When the link can take a transfer (R186, R188). -/
theorem HostLink.canSend_iff (h : HostLink) :
    h.canSend = true ↔ h.operating = true ∧ h.endpoint.busMaster = true ∧ h.bus.busy = false := by
  simp [HostLink.canSend, and_assoc]

theorem exec_busTransferSend_nothing (h : s.link.canSend = false ∨ s.link.device = .offline) :
    exec .busTransferSend s = .next s := by
  refine congrArg Host.Outcome.next ?_
  rcases h with hcan | hd
  · exact if_neg (by simp [hcan])
  · rw [hd]
    exact ite_self s

theorem exec_busTransferSend_online (hcan : s.link.canSend = true) (hd : s.link.device = .online) :
    exec .busTransferSend s = .next (s.modBus (·.sendNext s.link.endpoint.address s.timeBase)) := by
  simp only [exec, execBusTransferSend, hcan, hd, if_true]

theorem exec_busTransferSend_failed (hcan : s.link.canSend = true) (hd : s.link.device = .failed) :
    exec .busTransferSend s = .next (s.modBus (·.sendFailed s.link.endpoint.address)) := by
  simp only [exec, execBusTransferSend, hcan, hd, if_true]

end

/-- Settles O52: class by class, each with the classes before it empty. -/
theorem busServesTheLowestClass : Obligations.BusServesTheLowestClass := by
  intro s b can sends
  have hcan : s.link.canSend = true ↔ can := s.link.canSend_iff
  refine ⟨fun hno => ?_, fun hc hd => ?_, fun hc hd => ?_⟩
  · exact exec_busTransferSend_nothing (hno.imp_left fun hc => Bool.eq_false_iff.2 (mt hcan.1 hc))
  · have hsends {x : Bus} (hx : b.sendNext s.link.endpoint.address s.timeBase = x) : sends x := by
      rw [← hx]
      exact exec_busTransferSend_online (hcan.2 hc) hd
    refine ⟨fun a bytes rest h1 => hsends (Bus.sendNext_class1 h1),
      fun cause rest h1 => hsends (Bus.sendNext_class1 h1), fun r rest h1 h2 => hsends (Bus.sendNext_class2 h1 h2), ?_,
      fun w rest h1 h2 h3 h4 => hsends (Bus.sendNext_class4 h1 h2 (Bus.nextFrame_none h3) h4),
      fun h1 h2 h3 h4 => hsends (Bus.sendNext_nothing h1 h2 (Bus.nextFrame_none h3) h4)⟩
    intro k hk h1 h2 nth w hw hbefore
    exact hsends ((Bus.sendNext_class3 h1 h2 (Bus.nextFrame_inTurn hk hw hbefore)).trans (Bus.sendFrame_some hw))
  · have hsends {x : Bus} (hx : b.sendFailed s.link.endpoint.address = x) : sends x := by
      rw [← hx]
      exact exec_busTransferSend_failed (hcan.2 hc) hd
    exact ⟨fun rest h1 => hsends (Bus.sendFailed_message h1), fun hno => hsends (Bus.sendFailed_nothing hno)⟩

end Sys2Proof.Machine
end

section
/-!
PROOFS. A structure read part by part: its bytes from an offset are some part, and what that says of the fields of the
part.
-/

namespace Sys2Proof.Machine

open Sys2Proof

-- One thread at a time: each thread of a parallel proof reserves 1 GiB of the check's memory limit.
set_option Elab.async false

/-! ### Parts -/

/-- The bytes of a structure from an offset are those of `part`. -/
def PartAt (bytes : List Byte) (offset : Nat) (part : List Byte) : Prop :=
  ∀ i b, part[i]? = some b → bytes[offset + i]? = some b

section

variable {r : List Byte} {o : Nat}

theorem PartAt.refl (r : List Byte) : PartAt r 0 r := fun i b h => by rwa [Nat.zero_add]

/-- A field of a part is a field of the structure. -/
theorem PartAt.fieldAt {part : List Byte} {k n w : Nat} {v : BitVec w} (h : PartAt r o part) (hf : FieldAt part k n v) :
    FieldAt r (o + k) n v := fun i hi => by
  rw [Nat.add_assoc]
  exact h _ _ (hf i hi)

@[simp] theorem partAt_nil : PartAt r o [] := fun i b h => by simp at h

@[simp] theorem partAt_append {a b : List Byte} : PartAt r o (a ++ b) ↔ PartAt r o a ∧ PartAt r (o + a.length) b := by
  constructor
  · refine fun h => ⟨fun i x hx => h i x ?_, fun i x hx => ?_⟩
    · rwa [List.getElem?_append_left (List.getElem?_eq_some_iff.1 hx).1]
    · rw [Nat.add_assoc]
      exact h _ x (by rwa [List.getElem?_append_right (by omega), Nat.add_sub_cancel_left])
  · rintro ⟨ha, hb⟩ i x hx
    by_cases hi : i < a.length
    · exact ha i x (by rwa [List.getElem?_append_left hi] at hx)
    · have h := hb _ x (by rwa [List.getElem?_append_right (by omega)] at hx)
      rwa [Nat.add_assoc, Nat.add_sub_of_le (by omega)] at h

@[simp] theorem partAt_leBytes {n w : Nat} {v : BitVec w} : PartAt r o (leBytes n v) ↔ FieldAt r o n v := by
  refine ⟨fun h => h.fieldAt (fieldAt_leBytes n v), fun h i b hb => ?_⟩
  have hi : i < n := by simpa using (List.getElem?_eq_some_iff.1 hb).1
  rw [h i hi, ← hb, ← fieldAt_leBytes n v i hi, Nat.zero_add]

/-- One byte is the field of its own bits. -/
theorem leBytes_byte (x : Byte) : leBytes 1 x = [x] := congrArg (fun y => [y]) (byte_extract x)

@[simp] theorem partAt_cons {x : Byte} {l : List Byte} :
    PartAt r o (x :: l) ↔ FieldAt r o 1 x ∧ PartAt r (o + 1) l := by
  rw [← List.singleton_append, ← leBytes_byte, partAt_append, partAt_leBytes, leBytes_length]

/-- A part of zero bytes is a field that holds 0. -/
theorem PartAt.zero {n w : Nat} (h : PartAt r o (List.replicate n 0)) : FieldAt r o n (0 : BitVec w) :=
  h.fieldAt (k := 0) (fieldAt_zeros (by omega))

/-- A table whose rows have one length stands row by row. -/
theorem PartAt.row {α : Type} {f : α → List Byte} {n : Nat} (hf : ∀ x, (f x).length = n) {l : List α}
    (h : PartAt r o (l.flatMap f)) {k : Nat} {x : α} (hx : l[k]? = some x) : PartAt r (o + n * k) (f x) := by
  intro i b hb
  obtain ⟨hk, rfl⟩ := List.getElem?_eq_some_iff.1 hx
  have hi : i < n := hf l[k] ▸ (List.getElem?_eq_some_iff.1 hb).1
  rw [Nat.add_assoc]
  exact h _ b (by rwa [getElem_flatMap_rows hf l k hk i hi])

/-- A table of 16-bit entries. -/
theorem PartAt.halves {l : List Half} (h : PartAt r o (l.flatMap (leBytes 2 ·))) {k : Nat} {v : Half}
    (hv : l[k]? = some v) : FieldAt r (o + 2 * k) 2 v := partAt_leBytes.1 (h.row (leBytes_length 2) hv)

/-! ### What a field's own bytes are -/

/-- Three zero bytes, one after another. -/
theorem fieldAt_zero_three (h0 : FieldAt r o 1 (0 : Byte)) (h1 : FieldAt r (o + 1) 1 (0 : Byte))
    (h2 : FieldAt r (o + 2) 1 (0 : Byte)) : FieldAt r o 3 (0 : BitVec 24) :=
  PartAt.zero (n := 3) (partAt_cons.2 ⟨h0, partAt_cons.2 ⟨h1, partAt_cons.2 ⟨h2, partAt_nil⟩⟩⟩)

theorem FieldAt.getElem_byte {x : Byte} (h : FieldAt r o 1 x) : r[o]? = some x := by
  rw [← byte_extract x]
  exact h 0 Nat.one_pos

/-- A field of bytes read back (R196). -/
theorem FieldAt.byteAt_eq {x : Byte} (h : FieldAt r o 1 x) : byteAt r o = x := by
  rw [byteAt, List.getD_eq_getElem?_getD, h.getElem_byte, Option.getD_some]

/-- A byte of a field. -/
theorem FieldAt.byteAt_extract {n w i : Nat} {v : BitVec w} (h : FieldAt r o n v) (hi : i < n) :
    byteAt r (o + i) = v.extractLsb' (8 * i) 8 := by
  rw [byteAt, List.getD_eq_getElem?_getD, h i hi, Option.getD_some]

theorem FieldAt.halfAt_eq {v : Half} (h : FieldAt r o 2 v) : halfAt r o = v := by
  have hb (i : Nat) (hi : i < 2) := h.byteAt_extract hi
  have h0 : byteAt r o = _ := hb 0 (by omega)
  rw [halfAt, h0, hb 1 (by omega)]
  exact half_join v

theorem FieldAt.wordAt_eq {v : Word} (h : FieldAt r o 4 v) : wordAt r o = v := by
  have hb (i : Nat) (hi : i < 4) := h.byteAt_extract hi
  have h0 : byteAt r o = _ := hb 0 (by omega)
  simp only [wordAt, halfAt, Nat.add_assoc, Nat.reduceAdd, h0, hb 1 (by omega), hb 2 (by omega), hb 3 (by omega)]
  exact word_join v

theorem FieldAt.longAt_eq {v : BitVec 64} (h : FieldAt r o 8 v) : longAt r o = v := by
  have hb (i : Nat) (hi : i < 8) := h.byteAt_extract hi
  have h0 : byteAt r o = _ := hb 0 (by omega)
  simp only [longAt, wordAt, halfAt, Nat.add_assoc, Nat.reduceAdd, h0, hb 1 (by omega), hb 2 (by omega),
    hb 3 (by omega), hb 4 (by omega), hb 5 (by omega), hb 6 (by omega), hb 7 (by omega)]
  exact long_join v

end

end Sys2Proof.Machine
end

section
/-!
PROOFS. The record a command is written as: where its fields stand, that no reserved bit of it is set, and what the
common checks read from it.
-/

namespace Sys2Proof

open Sys2Proof.Machine

-- One thread at a time: each thread of a parallel proof reserves 1 GiB of the check's memory limit.
set_option Elab.async false

/-! ### Reserved bits -/

/-- The bytes of a part at an offset set no bit outside `mask`. -/
def Fits (mask : Nat → Byte) : Nat → List Byte → Prop
  | _, [] => True
  | o, b :: l => b &&& ~~~(mask o) = 0 ∧ Fits mask (o + 1) l

section

variable {mask : Nat → Byte} {o : Nat}

@[simp] theorem fits_nil : Fits mask o [] := trivial

@[simp] theorem fits_cons {b : Byte} {l : List Byte} :
    Fits mask o (b :: l) ↔ b &&& ~~~(mask o) = 0 ∧ Fits mask (o + 1) l := Iff.rfl

@[simp] theorem fits_append {a b : List Byte} : Fits mask o (a ++ b) ↔ Fits mask o a ∧ Fits mask (o + a.length) b := by
  induction a generalizing o with
  | nil => simp
  | cons x a ih => simp [ih, and_assoc, Nat.add_assoc, Nat.add_comm 1]

@[simp] theorem fits_zeros {n : Nat} : Fits mask o (List.replicate n 0) := by
  induction n generalizing o with
  | zero => trivial
  | succ n ih => exact ⟨BitVec.zero_and, ih⟩

/-- Bytes that are assigned whole may hold anything. -/
theorem fits_of_whole {l : List Byte} (h : ∀ i < l.length, mask (o + i) = 0xFF) : Fits mask o l := by
  induction l generalizing o with
  | nil => trivial
  | cons b l ih =>
    refine ⟨?_, ih fun i hi => ?_⟩
    · rw [show mask o = 0xFF from h 0 (by simp)]
      exact BitVec.and_zero
    · rw [Nat.add_assoc, Nat.add_comm 1]
      exact h (i + 1) (by simpa using hi)

theorem Fits.byteAt_and {r : List Byte} (h : Fits mask o r) (i : Nat) : byteAt r i &&& ~~~(mask (o + i)) = 0 := by
  induction r generalizing o i with
  | nil => exact BitVec.zero_and
  | cons b l ih =>
    cases i with
    | zero => exact h.1
    | succ i => simpa [byteAt, Nat.add_assoc, Nat.add_comm 1] using ih h.2 i

end

/-- The whole bytes R197 assigns from an offset on. -/
theorem Opcode.fits_field {o : Opcode} {offset : Nat} {l : List Byte} {f : Nat × Nat} (hf : f ∈ o.fields)
    (hlo : f.1 ≤ offset) (hhi : offset + l.length ≤ f.1 + f.2) : Fits o.assignedBits offset l :=
  fits_of_whole fun i hi => by
    rw [Opcode.assignedBits_eq, if_pos]
    exact .inr (.inr (.inr (List.any_eq_true.2 ⟨f, hf, by simp; omega⟩)))

/-- No command's parameters set a reserved bit. -/
theorem Command.parameters_fit (cmd : Command)
    (hs : ∀ flags settings, cmd = .setLines flags settings → settings.length = 16) :
    Fits cmd.opcode.assignedBits 8 cmd.parameters := by
  cases cmd with
  | setLines flags settings =>
    have hlen : (settings.flatMap (leBytes 2 ·)).length = 32 := by
      rw [length_flatMap_rows (leBytes_length 2), hs flags settings rfl]
    have hfit : Fits Opcode.setLines.assignedBits 16 (settings.flatMap (leBytes 2 ·)) :=
      Opcode.fits_field (f := (16, 32)) (by decide) (by decide) (by omega)
    simp [Command.parameters, Command.opcode, leBytes_two flags, Opcode.assignedBits, Opcode.fields, hfit]
  | setChannel p =>
    simpa [Command.parameters, Command.opcode, leBytes_two, Opcode.assignedBits, Opcode.fields, Opcode.flagBits]
      using flagPair_reserved p.limitEnable p.report
  | defineContext c p =>
    simpa [Command.parameters, Command.opcode, leBytes_two, leBytes_four, Opcode.assignedBits, Opcode.fields,
      Opcode.flagBits] using flagByte_reserved p.clearCounters
  | calibrate store =>
    simpa [Command.parameters, Command.opcode, Opcode.assignedBits, Opcode.fields, Opcode.flagBits]
      using flagByte_reserved store
  | _ =>
    simp [Command.parameters, Command.opcode, leBytes_two, leBytes_four, leBytes_eight, Opcode.assignedBits,
      Opcode.fields]

/-! ### The context field -/

theorem Command.contextField_le (cmd : Command) : cmd.contextField.toNat ≤ 7 := by
  cases cmd <;> simp [Command.contextField] <;> omega

theorem Command.contextField_none {cmd : Command} (h : cmd.opcode.addressesContext = false) : cmd.contextField = 0 := by
  cases cmd <;> simp_all [Command.opcode, Opcode.addressesContext, Command.contextField]

/-! ### The layout of a record -/

theorem Command.parameters_length_le (cmd : Command)
    (hs : ∀ flags settings, cmd = .setLines flags settings → settings.length = 16) : cmd.parameters.length ≤ 56 := by
  cases cmd with
  | setLines flags settings =>
    simp [Command.parameters, length_flatMap_rows (leBytes_length 2), hs flags settings rfl]
  | _ => simp [Command.parameters]

section

variable {cmd : Command} {tag : Word}

theorem Command.record_length (hs : ∀ flags settings, cmd = .setLines flags settings → settings.length = 16) :
    (cmd.record tag).length = 64 := by
  have := cmd.parameters_length_le hs
  simp [Command.record]
  omega

/-- The parts of a record: its header of 8 bytes, and its parameters. -/
theorem Command.record_layout (cmd : Command) (tag : Word) :
    FieldAt (cmd.record tag) 0 1 cmd.opcode.code ∧ FieldAt (cmd.record tag) 1 1 cmd.contextField ∧
      FieldAt (cmd.record tag) 4 4 tag ∧ PartAt (cmd.record tag) 8 cmd.parameters := by
  have h : PartAt (cmd.record tag) 0 (cmd.record tag) := .refl _
  nth_rw 2 [Command.record] at h
  simp only [partAt_append, partAt_cons, partAt_nil, partAt_leBytes, List.length_append, List.length_cons,
    List.length_nil, leBytes_length, Nat.reduceAdd] at h
  obtain ⟨⟨⟨⟨hcode, hctx, -⟩, htag⟩, hparams⟩, -⟩ := h
  exact ⟨hcode, hctx, htag, hparams⟩

/-- No record sets a reserved bit (R12 check 4). -/
theorem Command.record_reservedZero (hs : ∀ flags settings, cmd = .setLines flags settings → settings.length = 16) :
    cmd.opcode.reservedZero (cmd.record tag) = true := by
  have hcode : cmd.opcode.assignedBits 0 = 0xFF := rfl
  have hctx : cmd.contextField &&& ~~~(cmd.opcode.assignedBits 1) = 0 := by
    cases h : cmd.opcode.addressesContext with
    | false => rw [Command.contextField_none h]; exact BitVec.zero_and
    | true => simp [Opcode.assignedBits, h]
  have htag : Fits cmd.opcode.assignedBits 4 (leBytes 4 tag) := fits_of_whole fun i hi => by
    rw [leBytes_length] at hi
    rw [Opcode.assignedBits, if_pos (by omega)]
  have hfit : Fits cmd.opcode.assignedBits 0 (cmd.record tag) := by
    simpa [Command.record, hcode, hctx, htag, cmd.parameters_fit hs] using fits_zeros
  rw [Opcode.reservedZero_iff]
  exact fun i _ => by simpa using hfit.byteAt_and i

end

/-! ### The fields of the parameters -/

theorem flagByte_eq (a : Bool) : flagByte a = BitVec.ofNat 8 a.toNat := by cases a <;> rfl

theorem flagPair_eq (a b : Bool) : flagByte a ||| flagByte b <<< 1 = BitVec.ofNat 8 (a.toNat + 2 * b.toNat) := by
  cases a <;> cases b <;> rfl

/-- A command's parameters stand in a record at the offsets and widths of R197. -/
def Command.FieldsAt (r : List Byte) : Command → Prop
  | .createRing n weight size base =>
    FieldAt r 8 1 n ∧ FieldAt r 9 1 weight ∧ FieldAt r 12 4 size ∧ FieldAt r 16 8 base
  | .deleteRing n => FieldAt r 8 1 n
  | .report address => FieldAt r 16 8 address
  | .setChannel p =>
    FieldAt r 8 1 p.channel ∧ FieldAt r 9 1 p.mode ∧ FieldAt r 10 1 p.gain ∧ FieldAt r 11 1 p.range ∧
    FieldAt r 12 1 (BitVec.ofNat 8 (p.limitEnable.toNat + 2 * p.report.toNat)) ∧ FieldAt r 16 2 p.low ∧
    FieldAt r 18 2 p.high
  | .rearmLimit channel => FieldAt r 8 1 channel
  | .loadSequence _ count address => FieldAt r 8 2 count ∧ FieldAt r 16 8 address
  | .defineContext _ p =>
    FieldAt r 8 1 p.priority ∧ FieldAt r 9 1 p.mode ∧ FieldAt r 10 1 p.source ∧ FieldAt r 11 1 p.paceLine ∧
    FieldAt r 12 1 p.paceEdge ∧ FieldAt r 13 1 p.start ∧ FieldAt r 14 1 p.startLine ∧ FieldAt r 15 1 p.startEdge ∧
    FieldAt r 16 1 p.stop ∧ FieldAt r 17 1 p.stopLine ∧ FieldAt r 18 1 p.stopEdge ∧ FieldAt r 19 1 p.depth ∧
    FieldAt r 20 1 p.bufferPolicy ∧ FieldAt r 21 1 p.slipPolicy ∧ FieldAt r 22 1 p.format ∧ FieldAt r 23 1 p.quota ∧
    FieldAt r 24 4 p.period ∧ FieldAt r 28 4 p.count ∧ FieldAt r 32 2 p.timeout ∧ FieldAt r 34 2 p.flush ∧
    FieldAt r 36 1 (BitVec.ofNat 8 p.clearCounters.toNat)
  | .calibrate store => FieldAt r 8 1 (BitVec.ofNat 8 store.toNat)
  | .postBuffer _ length bufferTag address => FieldAt r 8 4 length ∧ FieldAt r 12 4 bufferTag ∧ FieldAt r 16 8 address
  | .setLines flags settings => FieldAt r 8 2 flags ∧ ∀ k v, settings[k]? = some v → FieldAt r (16 + 2 * k) 2 v
  | .setCounter counter source edge => FieldAt r 8 1 counter ∧ FieldAt r 9 1 source ∧ FieldAt r 10 1 edge
  | .setOutput _ output kind code => FieldAt r 8 1 output ∧ FieldAt r 9 1 kind ∧ FieldAt r 10 2 code
  | .barrier | .arm _ | .stop _ | .abort _ | .resetContext _ | .releaseContext _ | .pulse _ => True

section

variable {r : List Byte} {cmd : Command}

theorem Command.fieldsAt_of_partAt (h : PartAt r 8 cmd.parameters) : cmd.FieldsAt r := by
  cases cmd with
  | setLines flags settings =>
    obtain ⟨hhead, hsettings⟩ := partAt_append.1 h
    obtain ⟨hflags, -⟩ := partAt_append.1 hhead
    exact ⟨partAt_leBytes.1 hflags, fun k v hv => hsettings.halves hv⟩
  | _ => simp_all [Command.parameters, Command.FieldsAt, ← flagByte_eq, ← flagPair_eq]

/-! ### A record read back -/

/-- A context number in the context field is read as that context. -/
theorem contextOf_eq {c : CtxId} (h : byteAt r 1 = BitVec.ofNat 8 c.val) : contextOf r = c := by
  rw [contextOf, h]
  exact contextNumber_read c

theorem channelParamsOf_eq {p : ChannelParams} (h : (Command.setChannel p).FieldsAt r) : channelParamsOf r = p := by
  obtain ⟨hchannel, hmode, hgain, hrange, hflags, hlow, hhigh⟩ := h
  simp only [channelParamsOf, hchannel.byteAt_eq, hmode.byteAt_eq, hgain.byteAt_eq, hrange.byteAt_eq, hflags.byteAt_eq,
    ← flagPair_eq, flagPair_bit_zero, flagPair_bit_one, hlow.halfAt_eq, hhigh.halfAt_eq]

theorem defineParamsOf_eq {c : CtxId} {p : DefineParams} (h : (Command.defineContext c p).FieldsAt r) :
    defineParamsOf r = p := by
  obtain ⟨hpriority, hmode, hsource, hpaceLine, hpaceEdge, hstart, hstartLine, hstartEdge, hstop, hstopLine, hstopEdge,
    hdepth, hbuffer, hslip, hformat, hquota, hperiod, hcount, htimeout, hflush, hclear⟩ := h
  simp only [defineParamsOf, hpriority.byteAt_eq, hmode.byteAt_eq, hsource.byteAt_eq, hpaceLine.byteAt_eq,
    hpaceEdge.byteAt_eq, hstart.byteAt_eq, hstartLine.byteAt_eq, hstartEdge.byteAt_eq, hstop.byteAt_eq,
    hstopLine.byteAt_eq, hstopEdge.byteAt_eq, hdepth.byteAt_eq, hbuffer.byteAt_eq, hslip.byteAt_eq, hformat.byteAt_eq,
    hquota.byteAt_eq, hperiod.wordAt_eq, hcount.wordAt_eq, htimeout.halfAt_eq, hflush.halfAt_eq, hclear.byteAt_eq,
    ← flagByte_eq, flagByte_bit]

/-- The sixteen settings of SET_LINES, read back. -/
theorem settings_eq {settings : List Half} (hlen : settings.length = 16)
    (h : ∀ k v, settings[k]? = some v → FieldAt r (16 + 2 * k) 2 v) :
    (List.range 16).map (fun k => halfAt r (16 + 2 * k)) = settings :=
  List.ext_getElem (by simp [hlen]) fun k _ hk => by
    rw [List.getElem_map, List.getElem_range]
    exact (h k _ (List.getElem?_eq_getElem hk)).halfAt_eq

/-- From its context field and its parameters a record is read as its command (R197). -/
theorem Command.read_of_fieldsAt (hs : ∀ flags settings, cmd = .setLines flags settings → settings.length = 16)
    (hctx : byteAt r 1 = cmd.contextField) (h : cmd.FieldsAt r) : cmd.opcode.read r = cmd := by
  cases cmd with
  | createRing ring weight size base =>
    obtain ⟨hring, hweight, hsize, hbase⟩ := h
    simp only [Command.opcode, Opcode.read, hring.byteAt_eq, hweight.byteAt_eq, hsize.wordAt_eq, hbase.longAt_eq]
  | deleteRing ring | rearmLimit channel => exact congrArg _ (FieldAt.byteAt_eq h)
  | barrier => rfl
  | report address => exact congrArg _ (FieldAt.longAt_eq h)
  | setChannel p => exact congrArg _ (channelParamsOf_eq h)
  | loadSequence c count address =>
    obtain ⟨hcount, haddress⟩ := h
    simp only [Command.opcode, Opcode.read, contextOf_eq hctx, hcount.halfAt_eq, haddress.longAt_eq]
  | defineContext c p => exact congrArg₂ _ (contextOf_eq hctx) (defineParamsOf_eq h)
  | arm c | stop c | abort c | resetContext c | releaseContext c | pulse c => exact congrArg _ (contextOf_eq hctx)
  | calibrate store =>
    simp only [Command.opcode, Opcode.read, FieldAt.byteAt_eq h, ← flagByte_eq, flagByte_bit]
  | postBuffer c length bufferTag address =>
    obtain ⟨hlength, htag, haddress⟩ := h
    simp only [Command.opcode, Opcode.read, contextOf_eq hctx, hlength.wordAt_eq, htag.wordAt_eq, haddress.longAt_eq]
  | setLines flags settings =>
    obtain ⟨hflags, hsettings⟩ := h
    simp only [Command.opcode, Opcode.read, hflags.halfAt_eq, settings_eq (hs _ _ rfl) hsettings]
  | setCounter counter source edge =>
    obtain ⟨hcounter, hsource, hedge⟩ := h
    simp only [Command.opcode, Opcode.read, hcounter.byteAt_eq, hsource.byteAt_eq, hedge.byteAt_eq]
  | setOutput c output kind code =>
    obtain ⟨houtput, hkind, hcode⟩ := h
    simp only [Command.opcode, Opcode.read, contextOf_eq hctx, houtput.byteAt_eq, hkind.byteAt_eq, hcode.halfAt_eq]

end

end Sys2Proof

namespace Sys2Proof.Machine

open Sys2Proof

-- One thread at a time: each thread of a parallel proof reserves 1 GiB of the check's memory limit.
set_option Elab.async false

/-- The common checks let a command's own record through, from a ring it may come from and with its region in order. -/
theorem commonCheck_record {cmd : Command} {tag : Word} {ring : RingId} {limit : Addr}
    (hs : ∀ flags settings, cmd = .setLines flags settings → settings.length = 16)
    (hring : cmd.opcode.adminOnly = true → ring = 0) (haddr : cmd.addressOk limit = true) :
    commonCheck ring limit (cmd.record tag) = .inr cmd := by
  obtain ⟨hcode, hctx, -, hparams⟩ := cmd.record_layout tag
  have hread : cmd.opcode.read (cmd.record tag) = cmd :=
    Command.read_of_fieldsAt hs hctx.byteAt_eq (Command.fieldsAt_of_partAt hparams)
  have hle := cmd.contextField_le
  rw [commonCheck_known hcode.byteAt_eq.symm, if_neg fun h => h.2 (hring h.1),
    if_neg fun h => by rw [hctx.byteAt_eq] at h; omega, if_neg (by simp [Command.record_reservedZero hs]), hread,
    if_pos haddr]

/-- Settles O16: the record's parts, and the common checks on it. -/
theorem recordsReadBack : Obligations.RecordsReadBack := by
  intro cmd tag ring limit hs hring haddr record has byte' opens
  obtain ⟨hcode, hctx, htag, hparams⟩ := cmd.record_layout tag
  have hfields : cmd.FieldsAt record := Command.fieldsAt_of_partAt hparams
  refine ⟨Command.record_length hs, htag, htag.wordAt_eq, commonCheck_record hs hring haddr, ?_⟩
  cases cmd with
  | barrier | arm c | stop c | abort c | resetContext c | releaseContext c | pulse c => exact ⟨hcode, hctx⟩
  | _ => exact ⟨⟨hcode, hctx⟩, hfields⟩

end Sys2Proof.Machine
end

section
/-!
PROOFS. The structures the part writes, field by field: completion records, frames, and the snapshot with its rings and
contexts.
-/

namespace Sys2Proof.Machine

open Sys2Proof

-- One thread at a time: each thread of a parallel proof reserves 1 GiB of the check's memory limit.
set_option Elab.async false

/-! ### Parts that are numbers and zeros -/

section

variable {r : List Byte} {o : Nat}

@[simp] theorem half_length (n : Nat) : (half n).length = 2 := leBytes_length _ _

@[simp] theorem zeros_length (n : Nat) : (zeros n).length = n := List.length_replicate

@[simp] theorem partAt_half {n : Nat} : PartAt r o (half n) ↔ FieldAt r o 2 (BitVec.ofNat 16 n) := partAt_leBytes

/-- The low 48 bits of an instant are its stamp (R198, R201). -/
theorem FieldAt.of_stamp {t : Time} (h : FieldAt r o 6 (stampOf t)) : FieldAt r o 6 t := fun i hi => by
  rw [h i hi]
  congr 1
  apply BitVec.eq_of_getLsbD_eq
  intro j hj
  simp only [BitVec.getLsbD_extractLsb', stampOf, BitVec.getLsbD_setWidth]
  rw [decide_eq_true (by omega : 8 * i + j < 48), Bool.true_and]

/-! ### Completion records -/

/-- The fields of a completion record (R198). -/
theorem Completion.fieldsAt (m : Completion) (phase : Bool) :
    let r := m.record phase
    FieldAt r 0 4 m.tag ∧ FieldAt r 4 4 m.w0 ∧ FieldAt r 8 4 m.w1 ∧ FieldAt r 12 4 m.w2 ∧ FieldAt r 16 6 m.stamp ∧
    FieldAt r 22 2 (BitVec.ofNat 16 m.subHead) ∧ FieldAt r 24 1 (byte m.status.kind) ∧
    FieldAt r 25 1 (byte m.status.code) ∧ FieldAt r 26 1 (byte m.ring.val) ∧ FieldAt r 27 1 m.context ∧
    FieldAt r 28 3 (0 : BitVec 24) ∧ FieldAt r 31 1 (flagByte phase) := by
  intro r
  have h : PartAt r 0 (m.record phase) := .refl _
  simp only [Completion.record, partAt_append, partAt_leBytes, partAt_cons, partAt_nil, List.length_append,
    leBytes_length, Nat.reduceAdd, and_true, and_assoc] at h
  obtain ⟨htag, h0, h1, h2, hstamp, hhead, hkind, hcode, hring, hctx, hz0, hz1, hz2, hphase⟩ := h
  exact ⟨htag, h0, h1, h2, hstamp, hhead, hkind, hcode, hring, hctx, fieldAt_zero_three hz0 hz1 hz2, hphase⟩

theorem Completion.record_length (m : Completion) (phase : Bool) : (m.record phase).length = 32 := by
  simp [Completion.record]

/-! ### Frames -/

theorem Frame.header_length (f : Frame) : f.header.length = 16 := by simp [Frame.header]

/-- The parts of a FRAMED frame: the fields of its header, its samples, and zeros (R201). -/
theorem Frame.framed_parts (f : Frame) (size : Nat) :
    let r := f.bytes .framed size
    FieldAt r 0 4 (f.scan.getD 0) ∧ FieldAt r 4 6 f.firstTick ∧ FieldAt r 10 2 f.lines ∧
    FieldAt r 12 1 (flagByte f.history ||| flagByte f.gap <<< 1) ∧ FieldAt r 13 3 (0 : BitVec 24) ∧
    PartAt r 16 (f.samples.flatMap (leBytes 2 ·)) ∧
    PartAt r (16 + 2 * f.samples.length) (zeros (size - (16 + 2 * f.samples.length))) := by
  intro r
  have h : PartAt r 0 (f.bytes .framed size) := .refl _
  simp only [Frame.bytes, partAt_append, List.length_append, f.header_length,
    length_flatMap_rows (leBytes_length 2), Nat.zero_add] at h
  obtain ⟨⟨hheader, hsamples⟩, hpad⟩ := h
  simp only [Frame.header, partAt_append, partAt_leBytes, partAt_cons, partAt_nil, List.length_append, leBytes_length,
    Nat.reduceAdd, and_true, and_assoc] at hheader
  obtain ⟨hscan, htick, hlines, hflags, hz0, hz1, hz2⟩ := hheader
  exact ⟨hscan, htick.of_stamp, hlines, hflags, fieldAt_zero_three hz0 hz1 hz2, hsamples, hpad⟩

theorem Frame.framed_length {f : Frame} {size : Nat} (h : 16 + 2 * f.samples.length ≤ size) :
    (f.bytes .framed size).length = size := by
  simp [Frame.bytes, f.header_length, length_flatMap_rows (leBytes_length 2)]
  omega

/-! ### The snapshot -/

/-- The entry of a ring (R202). -/
theorem Ring.fieldsAt {q : Ring} (h : PartAt r o q.reportBytes) :
    FieldAt r o 1 (byte q.state.code) ∧ FieldAt r (o + 1) 1 (byte q.weight) ∧
    FieldAt r (o + 2) 2 (BitVec.ofNat 16 q.size) ∧ FieldAt r (o + 4) 2 (BitVec.ofNat 16 q.head) ∧
    FieldAt r (o + 6) 2 (BitVec.ofNat 16 q.tail) := by
  simpa [Ring.reportBytes, and_assoc] using h

/-- The entry of a context (R202). -/
theorem Ctx.fieldsAt {x : Ctx} (h : PartAt r o x.reportBytes) :
    FieldAt r o 1 (byte x.state.code) ∧ FieldAt r (o + 1) 1 (byte x.cap.quota) ∧
    FieldAt r (o + 2) 1 (byte x.cap.queue.length) ∧ FieldAt r (o + 3) 1 (byte x.slots) ∧
    FieldAt r (o + 4) 2 (BitVec.ofNat 16 x.cap.store.length) ∧ FieldAt r (o + 6) 2 (0 : Half) ∧
    FieldAt r (o + 8) 4 x.run.numbered ∧ FieldAt r (o + 12) 4 x.run.delivered ∧ FieldAt r (o + 16) 4 x.run.dropped ∧
    FieldAt r (o + 20) 4 x.run.discarded ∧ FieldAt r (o + 24) 4 x.run.slips ∧
    FieldAt r (o + 28) 4 x.run.historyDelivered ∧ FieldAt r (o + 32) 4 x.run.nextScan ∧
    FieldAt r (o + 36) 1 (byte ((x.run.endReason.map EndReason.code).getD 0)) ∧
    FieldAt r (o + 37) 11 (0 : BitVec 88) := by
  simp only [Ctx.reportBytes, partAt_append, partAt_half, partAt_leBytes, partAt_cons, partAt_nil, List.length_append,
    List.length_cons, List.length_nil, half_length, zeros_length, leBytes_length, Nat.reduceAdd, Nat.add_assoc,
    and_true, and_assoc] at h
  obtain ⟨hstate, hquota, hqueue, hslots, hstore, hz, hnumbered, hdelivered, hdropped, hdiscarded, hslips, hhistory,
    hnext, hreason, hend⟩ := h
  exact ⟨hstate, hquota, hqueue, hslots, hstore, hz.zero, hnumbered, hdelivered, hdropped, hdiscarded, hslips, hhistory,
    hnext, hreason, hend.zero⟩

end

/-- The parts of the snapshot outside its two tables, and where the tables stand (R202). -/
theorem State.reportBytes_parts (s : State) :
    let r := s.reportBytes
    FieldAt r 0 4 s.statusWord ∧ FieldAt r 4 4 (0 : Word) ∧ FieldAt r 8 8 s.timeBase ∧
    PartAt r 16 (s.intake.rings.toList.flatMap Ring.reportBytes) ∧
    FieldAt r 56 1 (byte s.intake.table.length) ∧ FieldAt r 57 1 (byte s.cpl.backlog.length) ∧
    FieldAt r 58 1 (byte s.conv.source.code) ∧ FieldAt r 59 1 (byte s.unitsFree) ∧
    FieldAt r 60 2 (BitVec.ofNat 16 s.slotsFree) ∧ FieldAt r 62 2 (0 : Half) ∧ FieldAt r 64 4 (s.counter 0).count ∧
    FieldAt r 68 4 (s.counter 1).count ∧ FieldAt r 72 2 s.lineSnapshot ∧ FieldAt r 74 2 (s.out 0).code ∧
    FieldAt r 76 2 (s.out 1).code ∧ FieldAt r 78 2 (0 : Half) ∧
    PartAt r 80 (s.ctxs.toList.flatMap Ctx.reportBytes) ∧ FieldAt r 464 48 (0 : BitVec 384) := by
  intro r
  have h : PartAt r 0 s.reportBytes := .refl _
  simp only [State.reportBytes, partAt_append, partAt_half, partAt_leBytes, partAt_cons, partAt_nil, List.length_append,
    List.length_cons, List.length_nil, half_length, zeros_length, leBytes_length,
    length_flatMap_rows Ring.reportBytes_length, length_flatMap_rows Ctx.reportBytes_length, Vector.length_toList,
    Nat.reduceAdd, Nat.reduceMul, and_true, and_assoc] at h
  obtain ⟨hstatus, hz0, htime, hrings, htable, hbacklog, hsource, hunits, hslots, hz1, ha, hb, hlines, hout0, hout1,
    hz2, hctxs, hend⟩ := h
  exact ⟨hstatus, hz0.zero, htime, hrings, htable, hbacklog, hsource, hunits, hslots, hz1.zero, ha, hb, hlines, hout0,
    hout1, hz2.zero, hctxs, hend.zero⟩

/-- The entry of a ring in the snapshot. -/
theorem State.partAt_ring (s : State) (n : RingId) : PartAt s.reportBytes (16 + 8 * n.val) (s.ring n).reportBytes := by
  obtain ⟨-, -, -, hrings, -⟩ := s.reportBytes_parts
  exact hrings.row Ring.reportBytes_length (by simp [State.ring])

/-- The entry of a context in the snapshot. -/
theorem State.partAt_ctx (s : State) (c : CtxId) : PartAt s.reportBytes (80 + 48 * c.val) (s.ctx c).reportBytes := by
  obtain ⟨-, -, -, -, -, -, -, -, -, -, -, -, -, -, -, -, hctxs, -⟩ := s.reportBytes_parts
  exact hctxs.row Ctx.reportBytes_length (by simp [State.ctx])

/-- Settles O51: each structure's own parts, with the numbers of R199 and R202 case by case. -/
theorem writtenStructuresByOffset : Obligations.WrittenStructuresByOffset := by
  refine ⟨fun m phase => ?_, fun f size => ?_, fun s => ?_⟩
  · intro r kind codes
    obtain ⟨htag, h0, h1, h2, hstamp, hhead, hkind, hcode, hring, hctx, hz, hphase⟩ := m.fieldsAt phase
    have hkinds : kind = m.status.kind := by
      simp only [kind]
      cases m.status <;> rfl
    have hcodes : ∀ e ∈ codes, e.1.code = e.2 := by decide
    refine ⟨m.record_length phase, htag, h0, h1, h2, hstamp, hhead, hkinds ▸ hkind, fun e he hst => ?_, hring, hctx, hz,
      flagByte_eq phase ▸ hphase⟩
    rw [← hcodes e he, ← hst]
    exact hcode
  · intro packed framed
    refine ⟨length_flatMap_rows (leBytes_length 2) _, fun p code hp => ?_, fun hsize => ?_⟩
    · have h : PartAt packed 0 (f.samples.flatMap (leBytes 2 ·)) := .refl _
      simpa using h.halves hp
    · obtain ⟨hscan, htick, hlines, hflags, hz, hsamples, hpad⟩ := f.framed_parts size
      refine ⟨Frame.framed_length hsize, hscan, htick, hlines, flagPair_eq _ _ ▸ hflags, hz,
        fun p code hp => hsamples.halves hp, fun i hi hlt => ?_⟩
      have hbyte := hpad.fieldAt (fieldAt_zeros (offset := i - (16 + 2 * f.samples.length)) (length := 1) (w := 8)
        (by omega))
      rwa [Nat.add_sub_of_le hi] at hbyte
  · intro r number
    obtain ⟨hstatus, hz0, htime, -, htable, hbacklog, hsource, hunits, hslots, hz1, ha, hb, hlines, hout0, hout1, hz2,
      -, hend⟩ := s.reportBytes_parts
    refine ⟨s.reportBytes_length, hstatus, hz0, htime, fun n => ?_, htable, hbacklog, hsource, hunits, hslots, hz1, ha,
      hb, hlines, hout0, hout1, hz2, fun c => ?_, hend⟩
    · exact Ring.fieldsAt (s.partAt_ring n)
    · intro x entry
      obtain ⟨hstate, hquota, hqueue, hslots, hstore, hz, hnumbered, hdelivered, hdropped, hdiscarded, hslips, hhistory,
        hnext, hreason, hend⟩ := Ctx.fieldsAt (s.partAt_ctx c)
      refine ⟨hstate, hquota, hqueue, hslots, hstore, hz, hnumbered, hdelivered, hdropped, hdiscarded, hslips, hhistory,
        hnext, ?_, hend⟩
      change FieldAt _ _ 1 (byte ((x.run.endReason.map EndReason.code).getD 0)) at hreason
      generalize x.run.endReason = reason at hreason ⊢
      rcases reason with _ | e
      · exact hreason
      · cases e <;> exact hreason

end Sys2Proof.Machine
end
